-- ==== Sys2Proof/Word.lean ====
section
/-! DEFINITION. The words of the NX-24: bytes, lanes, complex values with parts of a fixed width, and exact complex
values with unbounded integer parts (spec/00_scope.md 5.2). -/

namespace Sys2Proof

/-- One byte of a lane record, of the frame header or of the parameter image (R164). -/
abbrev Byte := BitVec 8

/-- A lane number, 0..63 (R133). -/
abbrev Lane := Fin 64

/-- The number of one of the 24 call contexts (R2). -/
abbrev CtxNum := Fin 24

/-- The number of one of the 256 pages of history memory (R57). -/
abbrev Page := Fin 256

/-- A complex value (I, Q) whose parts are signed words of `w` bits (spec/00_scope.md 5.2). -/
structure Cplx (w : Nat) where
  i : BitVec w
  q : BitVec w
  deriving DecidableEq, Repr, Inhabited

/-- A transmitted symbol, received sample, residual, soft symbol, decision or error: 16 bits per part. -/
abbrev Sample := Cplx 16

/-- An adaptive-filter coefficient: 24 bits per part, 2^22 standing for a gain of 1.0 (R43, R77). -/
abbrev Tap := Cplx 24

/-- The complex value (0, 0). -/
abbrev Cplx.zero {w : Nat} : Cplx w := ⟨0, 0⟩

/-- A complex value with exact integer parts: products, sums and differences before they are narrowed (R37). -/
structure CInt where
  i : Int
  q : Int
  deriving DecidableEq, Repr, Inhabited

/-- The exact value of a complex word, each part read as a signed number. -/
def Cplx.toCInt {w : Nat} (c : Cplx w) : CInt := ⟨c.i.toInt, c.q.toInt⟩

/-- The part-by-part sum of two exact complex values. -/
def CInt.add (a b : CInt) : CInt := ⟨a.i + b.i, a.q + b.q⟩

/-- The part-by-part difference of two exact complex values. -/
def CInt.sub (a b : CInt) : CInt := ⟨a.i - b.i, a.q - b.q⟩

end Sys2Proof
end

