-- ==== Sys2Proof/Syntax.lean ====
section
/-! DEFINITION. The commands of the NX-24: one constructor for each row of spec/opcode_table.json. An operand is what
reaches the part's boundary with the event; a row whose effect is fixed by the station's state alone has none. -/

namespace Sys2Proof

/-- The steps of an NX-24, each whole and indivisible (spec/95_what_each_step_holds.md). -/
inductive Instr where
  /-- RESET_PIN_ASSERTED (R156): the reset pin goes low. -/
  | resetPinAsserted
  /-- RESET_PIN_RELEASED (R157): the reset pin goes high; the levels of the four station bits and the parity pin. -/
  | resetPinReleased (stationBits : BitVec 4) (parityPin : Bool)
  /-- SIGNATURE_BLOCK_READ (R160): the first SPI transaction is complete; its eight bytes. -/
  | signatureBlockRead (bytes : Vector Byte 8)
  /-- HEADERS_READ (R160): the second SPI transaction is complete; its bytes in address order. -/
  | headersRead (bytes : List Byte)
  /-- SCHEDULE_TABLE_READ (R161): the third SPI transaction is complete; its bytes in address order. -/
  | scheduleTableRead (bytes : List Byte)
  /-- PROFILE_TABLE_READ (R162): the fourth SPI transaction is complete; its bytes in address order. -/
  | profileTableRead (bytes : List Byte)
  /-- FRAME_MARK (R140): a frame mark, `clocks` highway clocks after the clock of the previous one. -/
  | frameMark (clocks : Nat)
  /-- MISSING_FRAME_MARK (R140): clock 6143 of a frame has passed and the next clock brought no mark. -/
  | missingFrameMark
  /-- HEADER_COMPLETE (R131): the 32 bytes of a frame header have been received (R165). -/
  | headerComplete (header : Vector Byte 32)
  /-- WATCH_TIMER_EXPIRY (R139): 2 ms of local time have passed without a restart of the watch. -/
  | watchTimerExpiry
  /-- ROUND_START (R148): the first clock of the bid field. -/
  | roundStart
  /-- ROUND_OUTCOME (R150): the end of the confirm field; the bits that the other stations drove dominant in the 37
  contend bits of the bid field and in the 5 of the confirm field, the first contend bit most significant (R132). -/
  | roundOutcome (othersBid : BitVec 37) (othersConfirm : BitVec 5)
  /-- SAMPLE_ARRIVAL (R12): a downstream half of kind SAMPLE in a lane: bits 3..0 of its byte 0, and its bytes 1..17. -/
  | sampleArrival (lane : Lane) (sequence : BitVec 4) (bytes : Vector Byte 17)
  /-- CONTROL_ARRIVAL (R12): a downstream half of kind CONTROL: bits 3..0 of its byte 0, and its bytes 1..17. -/
  | controlArrival (lane : Lane) (kind : BitVec 4) (bytes : Vector Byte 17)
  /-- ANNOUNCE (R144): a downstream half of kind ANNOUNCE: the profile number in bits 3..0 of its byte 0. -/
  | announce (lane : Lane) (profile : BitVec 4)
  /-- RELEASE (R145): a downstream half of kind RELEASE. -/
  | release (lane : Lane)
  /-- IDLE_ARRIVAL (R134): a downstream half of kind IDLE or of a kind code that names no downstream record. -/
  | idleArrival (lane : Lane) (kind : BitVec 4)
  /-- SAMPLE_ENTRY_COMPLETION (R26): the engine completes the SAMPLE entry it is working on. -/
  | sampleEntryCompletion
  /-- FREEZE (R99): the engine completes the FREEZE entry it is working on. -/
  | freeze
  /-- THAW (R100): the engine completes the THAW entry it is working on. -/
  | thaw
  /-- RETRAIN (R101): the engine completes the RETRAIN entry it is working on. -/
  | retrain
  /-- FAR_DELAY (R65): the engine completes the FAR_DELAY entry it is working on. -/
  | farDelay
  /-- FAR_OFF (R70): the engine completes the FAR_OFF entry it is working on. -/
  | farOff
  /-- CLEAR (R117): the engine completes the CLEAR entry it is working on. -/
  | clear
  /-- EXPORT (R121): the engine completes the EXPORT entry it is working on. -/
  | exportTaps
  /-- IMPORT (R128): the engine completes the IMPORT entry it is working on. -/
  | importTaps
  /-- UNKNOWN_CONTROL (R33): the engine completes a CONTROL entry of an unknown kind. -/
  | unknownControl
  /-- UPSTREAM_WRITE (R136): the write event of a lane's upstream half. -/
  | upstreamWrite (lane : Lane)
  deriving DecidableEq, Repr

end Sys2Proof
end

