-- ==== Sys2Proof/WellFormed.lean ====
section
/-! DEFINITION. Which commands the boundary of the part can raise: the operand checks that do not depend on the state. -/

namespace Sys2Proof

/-- The kind codes that name a downstream record other than IDLE: ANNOUNCE 1, SAMPLE 2, CONTROL 3, RELEASE 4 (R166). -/
def namesDownstreamRecord (kind : BitVec 4) : Bool := 1 ≤ kind.toNat && kind.toNat ≤ 4

/-- The command could be raised at the boundary: a mark comes after the previous one, a headers read carries 1 to 4
headers of 8 bytes (R159, R160), a schedule table read up to 8 entries of 68 bytes and a profile table read up to 16
entries of 32 bytes (R159), and an ignored half has a kind code that names no other downstream record (R134). -/
def Instr.wellFormed : Instr → Bool
  | .frameMark clocks => 1 ≤ clocks
  | .headersRead bytes => bytes.length % 8 == 0 && 8 ≤ bytes.length && bytes.length ≤ 32
  | .scheduleTableRead bytes => bytes.length % 68 == 0 && bytes.length ≤ 544
  | .profileTableRead bytes => bytes.length % 32 == 0 && bytes.length ≤ 512
  | .idleArrival _ kind => !namesDownstreamRecord kind
  | .resetPinAsserted | .resetPinReleased .. | .signatureBlockRead .. | .missingFrameMark | .headerComplete ..
  | .watchTimerExpiry | .roundStart | .roundOutcome .. | .sampleArrival .. | .controlArrival .. | .announce ..
  | .release .. | .sampleEntryCompletion | .freeze | .thaw | .retrain | .farDelay | .farOff | .clear
  | .exportTaps | .importTaps | .unknownControl | .upstreamWrite .. => true

end Sys2Proof
end

