-- ==== Sys2Proof/Decode.lean ====
section
/-! DEFINITION. Reading commands from the boundary. spec/opcode_table.json gives no row any bits, so `decodeTableWord`
reads none. What the boundary does encode is the downstream half of a lane: 18 bytes that the highway interface turns
into one command by the record kind (R134, R166). -/

namespace Sys2Proof

/-- The command a word of the opcode table spells. No row of the table gives bits, so no word spells one. -/
def decodeTableWord (_nbits _w : Nat) : Option Instr := none

/-- Bits 7..4 of byte 0: the record kind (R166). -/
def recordKind (byte0 : Byte) : BitVec 4 := byte0.extractLsb' 4 4

/-- Bits 3..0 of byte 0. -/
def lowNibble (byte0 : Byte) : BitVec 4 := byte0.extractLsb' 0 4

/-- Byte 0 of a record of a kind, with the given bits 3..0. -/
def headByte (kind low : BitVec 4) : Byte := kind ++ low

/-- Bytes 1..17 of a lane half. -/
def payloadOf (half : Vector Byte 18) : Vector Byte 17 :=
  #v[half[1], half[2], half[3], half[4], half[5], half[6], half[7], half[8], half[9], half[10], half[11], half[12],
     half[13], half[14], half[15], half[16], half[17]]

/-- The 18 bytes of a lane half with the given byte 0 and bytes 1..17. -/
def halfOf (byte0 : Byte) (bytes : Vector Byte 17) : Vector Byte 18 :=
  #v[byte0, bytes[0], bytes[1], bytes[2], bytes[3], bytes[4], bytes[5], bytes[6], bytes[7], bytes[8], bytes[9],
     bytes[10], bytes[11], bytes[12], bytes[13], bytes[14], bytes[15], bytes[16]]

/-- The command that the arrival of a downstream half raises, by its kind in bits 7..4 of byte 0 (R134, R166):
ANNOUNCE 1, SAMPLE 2, CONTROL 3, RELEASE 4; IDLE 0 and every other code is an ignored arrival. -/
def commandOfHalf (lane : Lane) (half : Vector Byte 18) : Instr :=
  let kind := recordKind half[0]
  let low := lowNibble half[0]
  if kind = 1 then .announce lane low
  else if kind = 2 then .sampleArrival lane low (payloadOf half)
  else if kind = 3 then .controlArrival lane low (payloadOf half)
  else if kind = 4 then .release lane
  else .idleArrival lane kind

/-- The lane and the 18 bytes with which a line pump raises a downstream command, spare bits and bytes written as 0
(R166, R167). No other command is raised by a downstream half. -/
def halfOfCommand : Instr → Option (Lane × Vector Byte 18)
  | .sampleArrival lane sequence bytes => some (lane, halfOf (headByte 2 sequence) bytes)
  | .controlArrival lane kind bytes => some (lane, halfOf (headByte 3 kind) bytes)
  | .announce lane profile => some (lane, halfOf (headByte 1 profile) (Vector.replicate 17 0))
  | .release lane => some (lane, halfOf (headByte 4 0) (Vector.replicate 17 0))
  | .idleArrival lane kind => some (lane, halfOf (headByte kind 0) (Vector.replicate 17 0))
  | .resetPinAsserted | .resetPinReleased .. | .signatureBlockRead .. | .headersRead .. | .scheduleTableRead ..
  | .profileTableRead .. | .frameMark .. | .missingFrameMark | .headerComplete .. | .watchTimerExpiry | .roundStart
  | .roundOutcome .. | .sampleEntryCompletion | .freeze | .thaw | .retrain | .farDelay | .farOff | .clear
  | .exportTaps | .importTaps | .unknownControl | .upstreamWrite .. => none

end Sys2Proof
end

