-- ==== Sys2Proof/Config.lean ====
section
/-! DEFINITION. What is fixed for every NX-24 by the spec, and the one value the spec leaves open. -/

namespace Sys2Proof.Config

/-- Symbol positions of one page (R57). -/
abbrev pageSize : Nat := 64

/-- Input-queue capacity of a context (R15). -/
abbrev inputCapacity : Nat := 3

/-- Output-queue capacity of a context (R15). -/
abbrev outputCapacity : Nat := 4

/-- The load-point capacity of a station (R147). -/
abbrev stationLoad : Nat := 4096

/-- Highway clocks of one frame (R130). -/
abbrev frameClocks : Nat := 6144

/-- Good frames that bring an UNSYNCED station to ACTIVE (R140). -/
abbrev goodFramesToSync : Nat := 64

/-- Local-oscillator periods of the 2 ms highway watch (R139). -/
abbrev watchPeriods : Nat := 65536

/-- The end of the serial memory's 24-bit address space (R160). -/
abbrev imageEnd : Nat := 16777216

/-- What a history position holds before anything has been written to it. R57: "After power-up the positions hold
arbitrary values." A FREE VALUE (notes/assumptions/3.md): no body, so that nothing can rest on it. The argument is the
position's address, 64 times the page number plus the position within the page. -/
opaque powerUpSymbol : Nat → Sample

end Sys2Proof.Config
end

