-- ==== Sys2Proof/Machine/State.lean ====
section
/-! DEFINITION. The state of an NX-24 station, block by block as spec/00_scope.md 2.1 lists the blocks, with its value
right after reset. Plain data throughout. -/

namespace Sys2Proof.Machine

/-! ### Profiles and schedules (R93, R94, R105, R162) -/

/-- The equalizer mode of a schedule phase (R86, R94). -/
inductive EqMode where
  | off | reference | decision
  deriving DecidableEq, Repr

/-- The source of the echo adaptation gate (R53). -/
inductive Gate where
  | internal | pump | pumpInverted | both | hold
  deriving DecidableEq, Repr

/-- When a newly pending condition makes a STATUS due (R114). -/
inductive ReportMode where
  | every | first | none
  deriving DecidableEq, Repr

/-- One phase of an adaptation schedule (Table 6-1). -/
structure Phase where
  length   : Nat
  se       : Nat
  sw       : Nat
  mode     : EqMode
  leak     : Nat
  farAdapt : Bool
  deriving DecidableEq, Repr

/-- The settings of a valid profile (R105, R162), with the load points computed when it was loaded (R146). -/
structure Profile where
  rateCode   : Nat
  levelsCode : Nat
  grid       : Nat
  nn         : Nat
  nf         : Nat
  ne         : Nat
  schedule   : Fin 8
  ks         : Nat
  kq         : Nat
  gate       : Gate
  reportMode : ReportMode
  signalRise : Bool
  signalFall : Bool
  errorRise  : Bool
  errorFall  : Bool
  clipEnable : Bool
  tOn        : Nat
  tOff       : Nat
  tConv      : Nat
  tDiv       : Nat
  load       : Nat
  deriving DecidableEq, Repr

/-! ### Queue entries (R12, R13, R17) -/

/-- A SAMPLE entry: the fields of its record, and the tags fixed at its arrival (R12, R13). REF is tagged exactly when
`reference` is present. -/
structure SampleEntry where
  sequence  : BitVec 4
  symbol    : Sample
  r0        : Sample
  r1        : Sample
  reference : Option Sample
  quiet     : Bool
  gap       : BitVec 4
  clipped   : Bool
  deriving DecidableEq, Repr

/-- A CONTROL entry: the kind code and bytes 1..17 of its record; the parameters are decoded at completion (R166). -/
structure ControlEntry where
  kind  : BitVec 4
  bytes : Vector Byte 17
  deriving DecidableEq, Repr

/-- An entry of an input queue, or in the engine. -/
inductive Entry where
  | sample (e : SampleEntry)
  | control (e : ControlEntry)
  deriving DecidableEq, Repr

/-- A RESULT waiting in an output queue; its status code is added when it is written (R17, R31). -/
structure ResultEntry where
  soft     : Sample
  decision : Sample
  error    : Sample
  stamp    : BitVec 16
  deriving DecidableEq, Repr

/-! ### Conditions, monitors, sections (R112, R106, R109, R119) -/

/-- The 19 conditions, in the order of their codes (Table 7-1). -/
inductive Condition where
  | diverged | overrun | outputLost | gap | inputClip | tapClip | residualClip | softClip | farRefused
  | importRefused | exportAborted | signalOn | signalOff | converged | phaseEntered | scheduleEnd | farWaiting
  | farActive | exportDone
  deriving DecidableEq, Repr

/-- The signal state (R106). -/
inductive SignalState where
  | absent | present
  deriving DecidableEq, Repr

/-- The error state (R109). -/
inductive ErrorState where
  | settled | unsettled
  deriving DecidableEq, Repr

/-- The three sections of taps (R119). -/
inductive TapSection where
  | near | far | eq
  deriving DecidableEq, Repr

/-- The export record (R120). -/
structure ExportRecord where
  part       : TapSection
  next       : Nat
  last       : Nat
  consistent : Bool
  deriving DecidableEq, Repr

/-! ### The far section (R63, R71) -/

/-- The delay, pages, write index and fill count of a far section that holds pages (R63, R71). -/
structure Ring where
  delay      : Nat
  pages      : List Page
  writeIndex : Nat
  fill       : Nat
  deriving DecidableEq, Repr

/-- The far state with the far fields that go with it, as the table of R63 pairs them: without a delay the delay is
absent, and without pages the page list is empty and the write index and fill count are 0. -/
inductive FarSection where
  | absent
  | unset
  | waiting (delay : Nat)
  | filling (ring : Ring)
  | active (ring : Ring)
  deriving DecidableEq, Repr

/-! ### Contexts (R2, R3) -/

/-- What a context holds while it is LIVE or RELEASING: the identity fields of R2 and the processing fields of
Table 1-2. `settings` is the profile's values, fixed from adoption (R2; notes/assumptions/13.md); its `load` is the
context's load points. Near and far taps stand in section order: sample phase 0, then sample phase 1 (R119). Position 0
of a line is the newest (R42, R76). Bit c−1 of `conditions` is the condition with code c (R169). -/
structure Call where
  lane          : Lane
  profile       : Fin 16
  settings      : Profile
  inputQueue    : List Entry
  outputQueue   : List ResultEntry
  lastSequence  : Option (BitVec 4)
  stamp         : BitVec 16
  nearLine      : List Sample
  nearTaps      : List Tap
  far           : FarSection
  farTaps       : List Tap
  eqLine        : List Sample
  eqTaps        : List Tap
  hold          : Bool
  phase         : Nat
  count         : Nat
  frozen        : Bool
  exportRun     : Option ExportRecord
  signalPower   : Nat
  signalState   : SignalState
  errorPower    : Nat
  errorState    : ErrorState
  conditions    : BitVec 19
  statusDue     : Bool
  firstReported : Bool
  deriving DecidableEq, Repr

/-- A context: FREE, where it holds no call state (R3), or LIVE or RELEASING with the state of its call. -/
inductive Context where
  | free
  | live (call : Call)
  | releasing (call : Call)
  deriving DecidableEq, Repr

/-! ### The blocks (spec/00_scope.md 2.1) -/

/-- The five station states (R155). -/
inductive StationState where
  | reset | loading | listenOnly | unsynced | active
  deriving DecidableEq, Repr

/-- A header of the parameter image, less its kind and spare byte (R160, R170). -/
structure TableHeader where
  revision : Nat
  length   : Nat
  pointer  : Nat
  deriving DecidableEq, Repr

/-- Where the image loader stands: no load, or the transaction of R159 it is waiting for, with what it has kept from
the transactions before it. -/
inductive LoadStep where
  | idle
  | signature
  | headers
  | scheduleTable (schedules profiles : TableHeader)
  | profileTable (table : Vector (Option (List Phase)) 8) (profiles : TableHeader)
  deriving DecidableEq, Repr

/-- A read transaction on the SPI port: the address sent and the number of data bytes (R158, R159). The select is driven
low exactly while one is present. -/
structure SpiRead where
  address : Nat
  count   : Nat
  deriving DecidableEq, Repr

/-- The image loader: the profile and schedule tables and the station state, with the load in progress, the SPI port and
the fault pin. A schedule is its list of phases (R93). -/
structure Loader where
  station   : StationState
  profiles  : Vector (Option Profile) 16
  schedules : Vector (Option (List Phase)) 8
  loadStep  : LoadStep
  spi       : Option SpiRead
  faultLow  : Bool
  deriving DecidableEq, Repr

/-- The upstream half that the station drives: its lane and its 18 bytes (R133, R136). -/
structure UpstreamHalf where
  lane  : Lane
  bytes : Vector Byte 18
  deriving DecidableEq, Repr

/-- The highway interface: the frame number seen (R131), the watch timer (R139; absent while it is stopped, otherwise
local-oscillator periods since its restart), the good-frame count (R140), whether clock 6143 of the current frame has
passed without a mark (R141), and the upstream half driven at the latest write event of the frame (R136). -/
structure Highway where
  frameNumber  : Option Lane
  watch        : Option Nat
  goodFrames   : Nat
  lapsed       : Bool
  upstreamHalf : Option UpstreamHalf
  deriving DecidableEq, Repr

/-- A bid under way: the lane of the round, the profile of the entry bid for, and the 37-bit value (R148, R149). -/
structure Bid where
  lane    : Lane
  profile : Fin 16
  value   : BitVec 37
  deriving DecidableEq, Repr

/-- The adoption unit: the pending-announcement table (R143), the free load (R147), the station number (R157), the
factory serial (R149), the bid under way, and the confirm field this station drove in the current frame (R150). -/
structure Adoption where
  announced     : Vector (Option (BitVec 4)) 64
  freeLoad      : Nat
  stationNumber : Option (BitVec 4)
  serial        : BitVec 24
  bid           : Option Bid
  confirm       : Option (BitVec 5)
  deriving DecidableEq, Repr

/-- The current job: a context number and one entry removed from that context's input queue (spec 2.1). -/
structure Job where
  context : CtxNum
  entry   : Entry
  deriving DecidableEq, Repr

/-- The processing engine: the current job and the last served lane (R20). -/
structure Engine where
  job        : Option Job
  lastServed : Lane
  deriving DecidableEq, Repr

/-- The history memory: the symbols at its positions, as address and symbol pairs with the addresses strictly rising
(position n of page p has address 64·p + n), the free page list, and the wait list of contexts and needs (R57 to R60). -/
structure History where
  cells     : List (Nat × Sample)
  freePages : List Page
  waitList  : List (CtxNum × Nat)
  deriving DecidableEq, Repr

/-- A station, with the queue of commands that wait to be taken, first in first out (notes/assumptions/1.md). -/
structure State where
  loader   : Loader
  highway  : Highway
  adoption : Adoption
  contexts : Vector Context 24
  engine   : Engine
  history  : History
  pending  : List Instr
  deriving DecidableEq, Repr

/-! ### Reset values (R156, and R11, R20, R75, R142, R143) -/

/-- The loader while the reset pin is asserted: every table entry absent, no transaction, the fault pin released. -/
def Loader.reset : Loader :=
  { station := .reset, profiles := Vector.replicate 16 none, schedules := Vector.replicate 8 none,
    loadStep := .idle, spi := none, faultLow := false }

/-- The RESET row of R142. -/
def Highway.reset : Highway :=
  { frameNumber := none, watch := none, goodFrames := 0, lapsed := false, upstreamHalf := none }

/-- The adoption unit while the reset pin is asserted: the factory serial is kept (R149, R156). -/
def Adoption.reset (serial : BitVec 24) : Adoption :=
  { announced := Vector.replicate 64 none, freeLoad := Config.stationLoad, stationNumber := none,
    serial := serial, bid := none, confirm := none }

/-- No job, and the last served lane 63 (R20). -/
def Engine.reset : Engine := { job := none, lastServed := 63 }

/-- All 256 pages free in ascending order and an empty wait list; the page contents are not cleared (R75). -/
def History.reset (cells : List (Nat × Sample)) : History :=
  { cells := cells, freePages := List.finRange 256, waitList := [] }

/-- The station with its reset pin asserted: everything at its reset value but the factory serial, the page contents
and the queue of waiting commands (R156). -/
def State.underReset (s : State) : State :=
  { loader := Loader.reset, highway := Highway.reset, adoption := Adoption.reset s.adoption.serial,
    contexts := Vector.replicate 24 .free, engine := Engine.reset, history := History.reset s.history.cells,
    pending := s.pending }

/-- The machine right after reset: the reset pin asserted (R156), nothing ever written to history memory, and no command
waiting. The factory serial is fixed at manufacture and the spec gives no value but that it is nonzero (R149): 1, a
DESIGN CHOICE (notes/assumptions/2.md). -/
def State.reset : State :=
  { loader := Loader.reset, highway := Highway.reset, adoption := Adoption.reset 1,
    contexts := Vector.replicate 24 .free, engine := Engine.reset, history := History.reset [], pending := [] }

/-! ### How a step can stop -/

/-- Why the model stops a step. -/
inductive Fault where
  /-- A SAMPLE entry completes for a LIVE context whose cursor names no phase of a valid schedule. Raised by
  SAMPLE_ENTRY_COMPLETION alone. SAFE: R93 and R95 rule it out in every state a station can reach. -/
  | noCurrentPhase
  deriving DecidableEq, Repr

/-- Why a command is refused. -/
inductive Refusal where
  /-- The command has no meaning in this model yet. Raised by an arm of `exec` alone. SAFE: the model stops. -/
  | notModelled (mnemonic : String)
  deriving DecidableEq, Repr

end Sys2Proof.Machine
end

