-- ==== Sys2Proof/Machine/Arith.lean ====
section
/-! DEFINITION. The exact arithmetic of spec/03_echo_cancellation.md 3.1: products, scaled rounding, saturation. -/

namespace Sys2Proof.Machine

/-- The filtering product of a tap and a symbol or sample: (ac − bd, ad + bc), exact (R37). -/
def filterProduct (t x : CInt) : CInt := ⟨t.i * x.i - t.q * x.q, t.i * x.q + t.q * x.i⟩

/-- The update product e·conj(x): (ac + bd, bc − ad), exact (R37). -/
def updateProduct (e x : CInt) : CInt := ⟨e.i * x.i + e.q * x.q, e.q * x.i - e.i * x.q⟩

/-- round_S(v) = floor((v + 2^(S−1)) / 2^S) (R38). Integer division by a positive number is floor division (R1). -/
def roundShift (shift : Nat) (v : Int) : Int := (v + 2 ^ (shift - 1)) / 2 ^ shift

/-- Scaled rounding of each part (R38). -/
def roundParts (shift : Nat) (v : CInt) : CInt := ⟨roundShift shift v.i, roundShift shift v.q⟩

/-- The lowest value of a signed word of `w` bits. -/
def lowest (w : Nat) : Int := -2 ^ (w - 1)

/-- The highest value of a signed word of `w` bits. -/
def highest (w : Nat) : Int := 2 ^ (w - 1) - 1

/-- A value clamped into the range of a signed word of `w` bits (R39). -/
def clampTo (w : Nat) (v : Int) : Int := max (lowest w) (min (highest w) v)

/-- sat16 for `w` = 16 and sat24 for `w` = 24: each part clamped, as a word (R39). -/
def saturate (w : Nat) (v : CInt) : Cplx w := ⟨BitVec.ofInt w (clampTo w v.i), BitVec.ofInt w (clampTo w v.q)⟩

/-- A clamp occurs when at least one of the two parts is changed (R39). -/
def clamps (w : Nat) (v : CInt) : Bool := clampTo w v.i != v.i || clampTo w v.q != v.q

/-- The sum of the filtering products of taps and line positions in step (R41, R44, R78). -/
def dot : List Tap → List Sample → CInt
  | t :: ts, x :: xs => (filterProduct t.toCInt x.toCInt).add (dot ts xs)
  | _, _ => ⟨0, 0⟩

/-- |e|² = I² + Q² (R107, R110). -/
def squaredMagnitude (e : Sample) : Nat := e.i.toInt.natAbs ^ 2 + e.q.toInt.natAbs ^ 2

/-- One value shifted into a line at position 0; the oldest leaves (R42, R76). -/
def shiftIn {α : Type} (x : α) (line : List α) : List α := (x :: line).take line.length

/-- `n` values (0, 0) shifted into a line (R27). -/
def shiftZeros : Nat → List Sample → List Sample
  | 0, line => line
  | n + 1, line => shiftZeros n (shiftIn Cplx.zero line)

/-- Every tap of a list set to (0, 0) (R65, R102). -/
def zeroed (taps : List Tap) : List Tap := taps.map fun _ => Cplx.zero

end Sys2Proof.Machine
end

