-- ==== Sys2Proof/Machine/Flags.lean ====
section
/-! DEFINITION. Conditions, the status code, and the status-due and first-reported flags
(spec/07_monitors_conditions_and_status.md 7.4 to 7.6). -/

namespace Sys2Proof.Machine

/-- The code of a condition: its number, its priority, and the status code it gives (Table 7-1). -/
def Condition.code : Condition → Nat
  | .diverged => 1
  | .overrun => 2
  | .outputLost => 3
  | .gap => 4
  | .inputClip => 5
  | .tapClip => 6
  | .residualClip => 7
  | .softClip => 8
  | .farRefused => 9
  | .importRefused => 10
  | .exportAborted => 11
  | .signalOn => 12
  | .signalOff => 13
  | .converged => 14
  | .phaseEntered => 15
  | .scheduleEnd => 16
  | .farWaiting => 17
  | .farActive => 18
  | .exportDone => 19

/-- The conditions in order of priority, the highest first (R113). -/
def Condition.inPriority : List Condition :=
  [.diverged, .overrun, .outputLost, .gap, .inputClip, .tapClip, .residualClip, .softClip, .farRefused, .importRefused,
   .exportAborted, .signalOn, .signalOff, .converged, .phaseEntered, .scheduleEnd, .farWaiting, .farActive, .exportDone]

/-- The condition's bit in the condition set: bit c − 1 for code c (R169). -/
def Condition.bit (c : Condition) : BitVec 19 := BitVec.twoPow 19 (c.code - 1)

/-- The condition is pending: it is in the condition set (R112). -/
def Call.isPending (call : Call) (c : Condition) : Bool := call.conditions.getLsbD (c.code - 1)

/-- The status-due and first-reported flags after a condition becomes pending, by the report mode (R114). -/
def Call.noteNewCondition (call : Call) : Call :=
  match call.settings.reportMode with
  | .every => { call with statusDue := true }
  | .first => if call.firstReported then call else { call with statusDue := true, firstReported := true }
  | .none => call

/-- Latching a condition: one that is already pending changes nothing; otherwise it becomes pending and the report mode
decides its effect on the two flags (R112, R114). -/
def Call.latch (call : Call) (c : Condition) : Call :=
  if call.isPending c then call
  else { call with conditions := call.conditions ||| c.bit }.noteNewCondition

/-- Latching several conditions in one event (R30). -/
def Call.latchAll (call : Call) (cs : List Condition) : Call := cs.foldl Call.latch call

/-- The condition in a list when a flag is set, and nothing otherwise. -/
def latchWhen (flag : Bool) (c : Condition) : List Condition := if flag then [c] else []

/-- The status code: the number of the highest-priority pending condition, or 0 when none is pending (R113). -/
def Call.statusCode (call : Call) : Nat :=
  match Condition.inPriority.find? call.isPending with
  | some c => c.code
  | none => 0

end Sys2Proof.Machine
end

