-- ==== Sys2Proof/Machine/Operands.lean ====
section
/-! DEFINITION. The fields of downstream records and the bytes of upstream records (spec/12_formats.md 12.3). Offsets in
comments are the record's; byte n of a record is element n − 1 of its bytes 1..17. -/

namespace Sys2Proof.Machine

/-- A complex word from four bytes, I then Q, most significant byte first (R164). -/
def sampleFrom (b0 b1 b2 b3 : Byte) : Sample := ⟨b0 ++ b1, b2 ++ b3⟩

/-- A tap from six bytes, I then Q, most significant byte first (R164). -/
def tapFrom (b0 b1 b2 b3 b4 b5 : Byte) : Tap := ⟨b0 ++ b1 ++ b2, b3 ++ b4 ++ b5⟩

/-! ### SAMPLE (R166, R167) -/

/-- Offsets 2..5: the transmitted symbol. -/
def sampleSymbol (b : Vector Byte 17) : Sample := sampleFrom b[1] b[2] b[3] b[4]

/-- Offsets 6..9: the received sample of sample phase 0. -/
def sampleR0 (b : Vector Byte 17) : Sample := sampleFrom b[5] b[6] b[7] b[8]

/-- Offsets 10..13: the received sample of sample phase 1. -/
def sampleR1 (b : Vector Byte 17) : Sample := sampleFrom b[9] b[10] b[11] b[12]

/-- Offsets 14..17, read only when the reference-present flag, bit 0 of byte 1, is 1 (R84, R166). -/
def sampleReference (b : Vector Byte 17) : Option Sample :=
  if b[0].getLsbD 0 then some (sampleFrom b[13] b[14] b[15] b[16]) else none

/-- Bit 1 of byte 1: QUIET. -/
def sampleQuiet (b : Vector Byte 17) : Bool := b[0].getLsbD 1

/-! ### CONTROL parameters (R167), decoded at completion (R166) -/

/-- RETRAIN: byte 1 bit 0, zero equalizer taps. -/
def zeroEqOption (b : Vector Byte 17) : Bool := b[0].getLsbD 0

/-- RETRAIN: byte 1 bit 1, zero echo taps. -/
def zeroEchoOption (b : Vector Byte 17) : Bool := b[0].getLsbD 1

/-- FAR_DELAY: bits 11..0 of bytes 1..2, the delay D. -/
def delayParameter (b : Vector Byte 17) : Nat := ((b[0] ++ b[1]).extractLsb' 0 12 : BitVec 12).toNat

/-- CLEAR: the condition mask of bytes 1..3, its spare bits 23..19 not read (R169). -/
def maskParameter (b : Vector Byte 17) : BitVec 19 := (b[0] ++ b[1] ++ b[2]).extractLsb' 0 19

/-- EXPORT and IMPORT: the section that the code of byte 1 names; codes 3..255 name none (R119, R167). -/
def sectionParameter (b : Vector Byte 17) : Option TapSection :=
  match b[0].toNat with
  | 0 => some .near
  | 1 => some .far
  | 2 => some .eq
  | _ => none

/-- EXPORT: byte 2, the first segment. IMPORT: byte 2, the segment number. -/
def segmentParameter (b : Vector Byte 17) : Nat := b[1].toNat

/-- EXPORT: byte 3, the count. -/
def countParameter (b : Vector Byte 17) : Nat := b[2].toNat

/-- EXPORT: byte 4 bit 0, the consistent flag. -/
def consistentParameter (b : Vector Byte 17) : Bool := b[3].getLsbD 0

/-- IMPORT: bytes 3..8, the first tap. -/
def firstTapParameter (b : Vector Byte 17) : Tap := tapFrom b[2] b[3] b[4] b[5] b[6] b[7]

/-- IMPORT: bytes 9..14, the second tap. -/
def secondTapParameter (b : Vector Byte 17) : Tap := tapFrom b[8] b[9] b[10] b[11] b[12] b[13]

/-- The control kinds, by their codes 1..8 (R166, R167). -/
def isUnknownKind (kind : BitVec 4) : Bool := kind.toNat == 0 || 9 ≤ kind.toNat

/-! ### Byte splitting for upstream records (R164) -/

/-- Byte `n` of a word, counted from the least significant. -/
def byteOf {w : Nat} (n : Nat) (v : BitVec w) : Byte := v.extractLsb' (8 * n) 8

/-- The section codes 0 NEAR, 1 FAR, 2 EQ (R167). -/
def sectionCode : TapSection → Byte
  | .near => 0
  | .far => 1
  | .eq => 2

end Sys2Proof.Machine
end

