-- ==== Sys2Proof/Machine/Ops.lean ====
section
/-! DEFINITION. The operations that several commands share: replacing one block's state, history memory, the allocator,
leaving LIVE and becoming FREE, the engine's choice and the end of its job, and adoption. -/

namespace Sys2Proof.Machine

/-! ### Replacing one block's state -/

/-- The station with one context replaced. -/
def State.setContext (s : State) (i : CtxNum) (c : Context) : State := { s with contexts := s.contexts.set i c }

/-- The station with its image loader replaced. -/
def State.withLoader (s : State) (l : Loader) : State := { s with loader := l }

/-- The station with its highway interface replaced. -/
def State.withHighway (s : State) (h : Highway) : State := { s with highway := h }

/-- The station with its adoption unit replaced. -/
def State.withAdoption (s : State) (a : Adoption) : State := { s with adoption := a }

/-- The station with its engine replaced. -/
def State.withEngine (s : State) (e : Engine) : State := { s with engine := e }

/-- The station with its history memory replaced. -/
def State.withHistory (s : State) (h : History) : State := { s with history := h }

/-! ### History memory (R57) -/

/-- What a position of history memory has had written to it since power-up, if anything has been. -/
def cellsRead : List (Nat × Sample) → Nat → Option Sample
  | [], _ => none
  | (b, v) :: rest, a => if a = b then some v else cellsRead rest a

/-- A symbol written at a position; the addresses stay strictly rising. -/
def cellsWrite : List (Nat × Sample) → Nat → Sample → List (Nat × Sample)
  | [], a, v => [(a, v)]
  | (b, u) :: rest, a, v =>
    if a < b then (a, v) :: (b, u) :: rest
    else if a = b then (a, v) :: rest
    else (b, u) :: cellsWrite rest a v

/-- The canonical form of history memory: addresses strictly rising, all of them below 256 × 64 (R57). -/
abbrev cellsWf (cells : List (Nat × Sample)) : Prop :=
  (cells.map Prod.fst).Pairwise (· < ·) ∧ ∀ c ∈ cells, c.1 < 16384

/-- The symbol at a position: the last one written there, or the arbitrary value it has held since power-up (R57). -/
def symbolAt (cells : List (Nat × Sample)) (a : Nat) : Sample := (cellsRead cells a).getD (Config.powerUpSymbol a)

/-! ### The ring (R71 to R73) -/

/-- The ring length: 64 times the number of pages (R71). -/
def Ring.length (r : Ring) : Nat := Config.pageSize * r.pages.length

/-- The position of history memory that a ring index denotes: position (i mod 64) of the page at place (i div 64) of the
page list (R71). Every index below the ring length denotes one. -/
def Ring.address (r : Ring) (i : Nat) : Option Nat :=
  r.pages[i / Config.pageSize]?.map fun p => Config.pageSize * p.val + i % Config.pageSize

/-- The write index advances by 1, wrapping from ring length − 1 to 0, and the fill count advances by 1 unless it already
equals the ring length (R72, steps 2 and 3). -/
def Ring.advance (r : Ring) : Ring :=
  { r with writeIndex := if r.writeIndex + 1 = r.length then 0 else r.writeIndex + 1,
           fill := if r.fill = r.length then r.fill else r.fill + 1 }

/-- The symbol written at the position that the write index names (R72, step 1). -/
def Ring.put (r : Ring) (cells : List (Nat × Sample)) (x : Sample) : List (Nat × Sample) :=
  match r.address r.writeIndex with
  | some a => cellsWrite cells a x
  | none => cells

/-- The symbol at a ring index. -/
def Ring.symbol (r : Ring) (cells : List (Nat × Sample)) (i : Nat) : Sample :=
  match r.address i with
  | some a => symbolAt cells a
  | none => Cplx.zero

/-- The ring index at which the latest symbol was written: one behind the write index, around the ring. -/
def Ring.latestIndex (r : Ring) : Nat := if r.writeIndex = 0 then r.length - 1 else r.writeIndex - 1

/-- The far symbols x(n−D−k) for k = 0..Nf−1, read at ring index (w − D − k) mod ring length (R73). -/
def Ring.window (r : Ring) (cells : List (Nat × Sample)) (nf : Nat) : List Sample :=
  (List.range nf).map fun k =>
    r.symbol cells (((r.latestIndex : Int) - (r.delay : Int) - (k : Int)) % (r.length : Int)).toNat

/-- The ring of a far section that has just been granted pages: write index 0 and fill count 0 (R61). -/
def Ring.granted (delay : Nat) (pages : List Page) : Ring :=
  { delay := delay, pages := pages, writeIndex := 0, fill := 0 }

/-! ### Far sections and contexts -/

/-- The call with its far section replaced. -/
def Call.withFar (c : Call) (f : FarSection) : Call := { c with far := f }

/-- The page list: empty in every far state that holds no pages (R63). -/
def FarSection.pages : FarSection → List Page
  | .filling r => r.pages
  | .active r => r.pages
  | .absent | .unset | .waiting _ => []

/-- The far state is WAITING. -/
def FarSection.isWaiting : FarSection → Bool
  | .waiting _ => true
  | .absent | .unset | .filling _ | .active _ => false

/-- The context is FREE. -/
def Context.isFree : Context → Bool
  | .free => true
  | .live _ | .releasing _ => false

/-- The context is LIVE. -/
def Context.isLive : Context → Bool
  | .live _ => true
  | .free | .releasing _ => false

/-- The call of a context that is not FREE. -/
def Context.call? : Context → Option Call
  | .free => none
  | .live c => some c
  | .releasing c => some c

/-- The load points a context holds: its profile's while it is LIVE or RELEASING, none when it is FREE (R2). -/
def Context.load : Context → Nat
  | .free => 0
  | .live c => c.settings.load
  | .releasing c => c.settings.load

/-- The pages a context holds (R58). -/
def Context.pages : Context → List Page
  | .free => []
  | .live c => c.far.pages
  | .releasing c => c.far.pages

/-- The call of a LIVE context on the lane: a context owns its lane while it is LIVE, and at no other time (R4). -/
def Context.callOnLane (lane : Lane) : Context → Option Call
  | .live c => if c.lane = lane then some c else none
  | .free | .releasing _ => none

/-- The LIVE context that owns a lane, with its call (R4). -/
def State.owner (s : State) (lane : Lane) : Option (CtxNum × Call) :=
  (List.finRange 24).findSome? fun i => (s.contexts[i].callOnLane lane).map fun c => (i, c)

/-- The lowest-numbered FREE context (R5). -/
def State.lowestFree (s : State) : Option CtxNum := (List.finRange 24).find? fun i => s.contexts[i].isFree

/-- The call is paused: its export record is present with the consistent flag set (R120). -/
def Call.paused (c : Call) : Bool :=
  match c.exportRun with
  | some e => e.consistent
  | none => false

/-- The error monitor is on when at least one of the two error enables is on (R105). -/
def Profile.errorMonitorOn (p : Profile) : Bool := p.errorRise || p.errorFall

/-- The error power at adoption and after a RETRAIN: T_div with the error monitor on, 0 with it off (R109). -/
def Profile.initialErrorPower (p : Profile) : Nat := if p.errorMonitorOn then p.tDiv else 0

/-! ### The allocator (R58 to R62) -/

/-- An entry of the wait list is granted: the first `need` pages leave the head of the free page list and become the
page list of the WAITING context, which becomes FILLING with write index 0 and fill count 0 (R61). -/
def State.grantPages (s : State) (i : CtxNum) (need : Nat) : State :=
  match s.contexts[i] with
  | .live c =>
    match c.far with
    | .waiting d =>
      (s.setContext i (.live (c.withFar (.filling (.granted d (s.history.freePages.take need)))))).withHistory
        { s.history with freePages := s.history.freePages.drop need }
    | .absent | .unset | .filling _ | .active _ => s
  | .free | .releasing _ => s

/-- The station with its wait list replaced. -/
def State.withWaitList (s : State) (w : List (CtxNum × Nat)) : State :=
  s.withHistory { s.history with waitList := w }

/-- The grant rule over a wait list: while it is not empty and the head's need is no greater than the free count, the
head is granted and leaves; then the rest is the wait list (R61). -/
def State.grantFrom : List (CtxNum × Nat) → State → State
  | [], s => s.withWaitList []
  | (i, need) :: rest, s =>
    if need ≤ s.history.freePages.length then State.grantFrom rest (s.grantPages i need)
    else s.withWaitList ((i, need) :: rest)

/-- One run of the allocator's grant rule (R61). -/
def State.runGrantRule (s : State) : State := State.grantFrom s.history.waitList s

/-- Pages returned to the tail of the free page list in page-list order, and the run of the grant rule that follows
every return (R59). -/
def State.returnPages (s : State) (pages : List Page) : State :=
  (s.withHistory { s.history with freePages := s.history.freePages ++ pages }).runGrantRule

/-- The context leaves the wait list (R60). -/
def State.leaveWaitList (s : State) (i : CtxNum) : State :=
  s.withWaitList (s.history.waitList.filter fun e => e.1 != i)

/-! ### Leaving LIVE and becoming FREE (R7, R8) -/

/-- What entry to RELEASING does to the context's own fields: both queues are emptied, the status-due flag is cleared,
and a WAITING far section becomes UNSET; everything else is kept (R7, R74). -/
def Call.withdraw (c : Call) : Call :=
  { c with inputQueue := [], outputQueue := [], statusDue := false,
           far := if c.far.isWaiting then .unset else c.far }

/-- A LIVE context becomes RELEASING and leaves the wait list (R7, steps 1 to 7, without the grant rule). -/
def State.leaveLive (s : State) (i : CtxNum) : State :=
  match s.contexts[i] with
  | .live c => (s.setContext i (.releasing c.withdraw)).leaveWaitList i
  | .free | .releasing _ => s

/-- A RELEASING context becomes FREE: its load points return to the free load and its pages to the free page list, and
the grant rule runs; the rest of its state is dropped (R8). -/
def State.becomeFree (s : State) (i : CtxNum) : State :=
  match s.contexts[i] with
  | .releasing c =>
    ((s.setContext i .free).withAdoption
      { s.adoption with freeLoad := s.adoption.freeLoad + c.settings.load }).returnPages c.far.pages
  | .free | .live _ => s

/-- The engine is working on an entry of the context. -/
def State.engineOn (s : State) (i : CtxNum) : Bool :=
  match s.engine.job with
  | some j => j.context == i
  | none => false

/-- A RELEASING context that the engine is not working on becomes FREE (R8). -/
def State.letGo (s : State) (i : CtxNum) : State := if s.engineOn i then s else s.becomeFree i

/-- A LIVE context released by a RELEASE or an ANNOUNCE in its lane: it becomes RELEASING, the grant rule runs if it left
the wait list, and it becomes FREE in the same event unless the engine is working on it (R7, R8). -/
def State.releaseContext (s : State) (i : CtxNum) : State :=
  match s.contexts[i] with
  | .live c =>
    let left := s.leaveLive i
    (if c.far.isWaiting then left.runGrantRule else left).letGo i
  | .free | .releasing _ => s

/-- The context that owns the lane, if any, is released (R7). -/
def State.releaseOwner (s : State) (lane : Lane) : State :=
  match s.owner lane with
  | some (i, _) => s.releaseContext i
  | none => s

/-! ### The engine (R20 to R23) -/

/-- The lanes in the order in which the engine examines them: from (last served lane + 1) mod 64 around to the last
served lane itself (R23). -/
def laneOrder (last : Lane) : List Lane := (List.finRange 64).map fun d => last + 1 + d

/-- The candidate on a lane: its LIVE owner when that has an entry waiting; with the head entry, and the call without
that entry (R16, R22). -/
def State.candidate (s : State) (lane : Lane) : Option (CtxNum × Call × Entry) :=
  match s.owner lane with
  | some (i, c) =>
    match c.inputQueue with
    | e :: rest => some (i, { c with inputQueue := rest }, e)
    | [] => none
  | none => none

/-- When the current job is none, the engine takes the head entry of the first lane in order that holds a candidate, and
that lane becomes the last served (R22, R23). Otherwise, and with no candidate, nothing changes. -/
def State.takeNext (s : State) : State :=
  match s.engine.job with
  | some _ => s
  | none =>
    match (laneOrder s.engine.lastServed).findSome? s.candidate with
    | some (i, c, e) => (s.setContext i (.live c)).withEngine { job := some { context := i, entry := e }, lastServed := c.lane }
    | none => s

/-- The current job becomes none (R22). -/
def State.endJob (s : State) : State := s.withEngine { s.engine with job := none }

/-- The completion event of the engine's entry for context `i` (R22, R24, R25). For a LIVE context the entry's outcome
takes effect whole; for a RELEASING one it is discarded and the context becomes FREE (R9, R35). Then the engine takes
its next entry. The job never names a FREE context (R21); if it did, the entry would end without effect. -/
def State.completeFor (s : State) (i : CtxNum) (outcome : Call → State → State) : State :=
  match s.contexts[i] with
  | .live c => (outcome c s.endJob).takeNext
  | .releasing _ => (s.endJob.becomeFree i).takeNext
  | .free => s.endJob.takeNext

/-- The completion of a CONTROL entry whose kind code is one of the command's. A command that does not match the entry in
the engine has no effect (notes/assumptions/4.md). -/
def State.completeControl (s : State) (isKind : BitVec 4 → Bool)
    (effect : CtxNum → Vector Byte 17 → Call → State → State) : State :=
  match s.engine.job with
  | some { context := i, entry := .control e } =>
    if isKind e.kind then s.completeFor i (effect i e.bytes) else s
  | some { context := _, entry := .sample _ } => s
  | none => s

/-! ### Adoption (R5, R6) -/

/-- The call of a context at its adoption: the identity fields of R5 and every processing field at the value of
Table 1-4. -/
def adoptedCall (lane : Lane) (number : Fin 16) (p : Profile) : Call :=
  { lane := lane, profile := number, settings := p
    inputQueue := [], outputQueue := [], lastSequence := none, stamp := 0
    nearLine := List.replicate p.nn Cplx.zero, nearTaps := List.replicate (2 * p.nn) Cplx.zero
    far := if p.nf = 0 then .absent else .unset
    farTaps := List.replicate (2 * p.nf) Cplx.zero
    eqLine := List.replicate p.ne Cplx.zero, eqTaps := List.replicate p.ne Cplx.zero
    hold := false, phase := 0, count := 0, frozen := false, exportRun := none
    signalPower := 0, signalState := .absent
    errorPower := p.initialErrorPower, errorState := .unsettled
    conditions := 0, statusDue := false, firstReported := false }

/-- The lowest-numbered FREE context becomes LIVE on the lane under the profile, and the free load falls by the profile's
load points (R5, R150). -/
def State.adopt (s : State) (lane : Lane) (number : Fin 16) (p : Profile) : State :=
  match s.lowestFree with
  | some i =>
    (s.setContext i (.live (adoptedCall lane number p))).withAdoption
      { s.adoption with freeLoad := s.adoption.freeLoad - p.load }
  | none => s

/-! ### Reading the highway (R134, R138, R141) -/

/-- The station takes part in the highway: it is ACTIVE, and the frame has not run past clock 6143 without a mark. -/
def State.onHighway (s : State) : Bool := s.loader.station == .active && !s.highway.lapsed

end Sys2Proof.Machine
end

