-- ==== Sys2Proof/Machine/Rounds.lean ====
section
/-! DEFINITION. Lane rounds: ROUND_START and ROUND_OUTCOME (R132, R148 to R151). -/

namespace Sys2Proof.Machine

/-- The bid value: 13 bits of spare load, then the 24 bits of the factory serial (R149). -/
def bidValue (spare : Nat) (serial : BitVec 24) : BitVec 37 := BitVec.ofNat 13 spare ++ serial

/-- The profile that a pending announcement names, when it is valid in this station (R147, R148). -/
def State.announcedProfile (s : State) (lane : Lane) : Option (Fin 16 × Profile) :=
  match s.adoption.announced[lane] with
  | some number => (s.loader.profiles[number.toFin]).map fun p => (number.toFin, p)
  | none => none

/-- The station's bid for the round of a lane, when it meets the five conditions of R148; its value is formed from the
free load, the profile and the factory serial (R149). -/
def State.bidFor (s : State) (lane : Lane) : Option Bid :=
  match s.announcedProfile lane with
  | some (number, p) =>
    if s.lowestFree.isSome && p.load ≤ s.adoption.freeLoad then
      some { lane := lane, profile := number, value := bidValue (s.adoption.freeLoad - p.load) s.adoption.serial }
    else none
  | none => none

/-- ROUND_START (R148): an ACTIVE station decides whether it bids for the lane whose number is the frame number seen. -/
def execRoundStart (s : State) : Host.Outcome State Fault Refusal :=
  if s.onHighway then
    match s.highway.frameNumber with
    | some lane => .next (s.withAdoption { s.adoption with bid := s.bidFor lane })
    | none => .next s
  else .next s

/-- The contend bits of a field in the order sent, the most significant first (R164). -/
def contendBits {w : Nat} (v : BitVec w) : List Bool := (List.range w).map fun n => v.getMsbD n

/-- A bidder compares, bit by bit, the value read, which is the OR of its own bit and the others', with the value sent:
when it has sent 0 and reads 1 it drops out. It survives when it stays in through every bit (R132). -/
def staysIn : List Bool → List Bool → Bool
  | own :: owns, other :: others => if !own && (own || other) then false else staysIn owns others
  | _, _ => true

/-- The confirm field a survivor sends: the valid bit 1, then its station number (R132, R150). -/
def confirmField (stationNumber : Option (BitVec 4)) : BitVec 5 := (1#1) ++ stationNumber.getD 0

/-- The entry of a lane replaced in the pending-announcement table (R143). -/
def State.setAnnounced (s : State) (lane : Lane) (entry : Option (BitVec 4)) : State :=
  s.withAdoption { s.adoption with announced := s.adoption.announced.set lane entry }

/-- The survivor's side of the outcome: it adopts the call under the profile it bid for (R150), and has driven its confirm
field. -/
def State.winRound (s : State) (b : Bid) : State :=
  match s.loader.profiles[b.profile] with
  | some p =>
    let adopted := s.adopt b.lane b.profile p
    adopted.withAdoption
      { adopted.adoption with confirm := some (confirmField s.adoption.stationNumber),
                              announced := adopted.adoption.announced.set b.lane none }
  | none => s

/-- The round is over for this station's bid. -/
def State.endBid (s : State) : State := s.withAdoption { s.adoption with bid := none }

/-- ROUND_OUTCOME (R150): the survivor adopts a context; every other station that reads a valid confirm clears its entry
for the lane of the round; without a valid confirm every entry stays. The operands are what the other stations drove in
the bid field and in the confirm field. -/
def execRoundOutcome (othersBid : BitVec 37) (othersConfirm : BitVec 5) (s : State) : Host.Outcome State Fault Refusal :=
  if s.onHighway then
    match s.adoption.bid with
    | some b =>
      if staysIn (contendBits b.value) (contendBits othersBid) then .next (s.endBid.winRound b)
      else if othersConfirm.getMsbD 0 then .next (s.endBid.setAnnounced b.lane none)
      else .next s.endBid
    | none =>
      match s.highway.frameNumber with
      | some lane => if othersConfirm.getMsbD 0 then .next (s.setAnnounced lane none) else .next s
      | none => .next s
  else .next s

end Sys2Proof.Machine
end

