-- ==== Sys2Proof/Machine/Arrivals.lean ====
section
/-! DEFINITION. The arrivals of downstream halves: SAMPLE_ARRIVAL, CONTROL_ARRIVAL, ANNOUNCE, RELEASE and IDLE_ARRIVAL
(R12 to R15, R134, R144, R145). -/

namespace Sys2Proof.Machine

/-- The gap count of a SAMPLE against the last queued sequence: 0 when that is absent, and otherwise
(sequence − last queued sequence − 1) mod 16 (R14). -/
def gapCount (last : Option (BitVec 4)) (sequence : BitVec 4) : BitVec 4 :=
  match last with
  | some l => sequence - l - 1
  | none => 0

/-- A part of a received sample at an end of its range. -/
def fullScale (v : BitVec 16) : Bool := v.toInt == -32768 || v.toInt == 32767

/-- The CLIPPED tag: the profile's clip enable is on and one of the four received parts is at an end of its range
(R13). -/
def clippedTag (clipEnable : Bool) (r0 r1 : Sample) : Bool :=
  clipEnable && (fullScale r0.i || fullScale r0.q || fullScale r1.i || fullScale r1.q)

/-- The entry of a SAMPLE arriving for a context, with its tags (R12, R13, R166). -/
def Call.sampleEntry (c : Call) (sequence : BitVec 4) (b : Vector Byte 17) : SampleEntry :=
  { sequence := sequence, symbol := sampleSymbol b, r0 := sampleR0 b, r1 := sampleR1 b
    reference := sampleReference b, quiet := sampleQuiet b
    gap := gapCount c.lastSequence sequence
    clipped := clippedTag c.settings.clipEnable (sampleR0 b) (sampleR1 b) }

/-- The context's call after an entry is appended to its input queue; a SAMPLE sets the last queued sequence (R12, R14). -/
def Call.enqueue (c : Call) (e : Entry) : Call :=
  { c with inputQueue := c.inputQueue ++ [e],
           lastSequence := match e with
             | .sample x => some x.sequence
             | .control _ => c.lastSequence }

/-- An arrival for the LIVE context `i`: the entry is appended, and taken at once by an idle engine's choice; at a full
queue it is discarded and OVERRUN is latched (R12, R15, R22). -/
def State.arrive (s : State) (i : CtxNum) (c : Call) (e : Entry) : State :=
  if c.inputQueue.length < Config.inputCapacity then (s.setContext i (.live (c.enqueue e))).takeNext
  else s.setContext i (.live (c.latch .overrun))

/-- SAMPLE_ARRIVAL (R12): queued to the owning context with its tags, discarded with OVERRUN at a full queue, or ignored
in a lane that the station does not own. -/
def execSampleArrival (lane : Lane) (sequence : BitVec 4) (bytes : Vector Byte 17) (s : State) :
    Host.Outcome State Fault Refusal :=
  if s.onHighway then
    match s.owner lane with
    | some (i, c) => .next (s.arrive i c (.sample (c.sampleEntry sequence bytes)))
    | none => .next s
  else .next s

/-- CONTROL_ARRIVAL (R12): queued to the owning context, discarded with OVERRUN at a full queue, or ignored in a lane that
the station does not own. -/
def execControlArrival (lane : Lane) (kind : BitVec 4) (bytes : Vector Byte 17) (s : State) :
    Host.Outcome State Fault Refusal :=
  if s.onHighway then
    match s.owner lane with
    | some (i, c) => .next (s.arrive i c (.control { kind := kind, bytes := bytes }))
    | none => .next s
  else .next s

/-- ANNOUNCE (R144): the lane's owning context, if any, is released, and the entry for the lane is set to the announced
profile. -/
def execAnnounce (lane : Lane) (profile : BitVec 4) (s : State) : Host.Outcome State Fault Refusal :=
  if s.onHighway then .next ((s.releaseOwner lane).setAnnounced lane (some profile)) else .next s

/-- RELEASE (R145): the lane's owning context, if any, is released, and the entry for the lane is cleared. -/
def execRelease (lane : Lane) (s : State) : Host.Outcome State Fault Refusal :=
  if s.onHighway then .next ((s.releaseOwner lane).setAnnounced lane none) else .next s

/-- IDLE_ARRIVAL (R134): an IDLE record, or one of an unknown kind, is ignored. -/
def execIdleArrival (_lane : Lane) (_kind : BitVec 4) (s : State) : Host.Outcome State Fault Refusal := .next s

end Sys2Proof.Machine
end

