-- ==== Sys2Proof/Machine/Far.lean ====
section
/-! DEFINITION. The controls of the far section, FAR_DELAY and FAR_OFF (R62, R65 to R70). -/

namespace Sys2Proof.Machine

/-- The need in pages: ceil((D + Nf) / 64) (R65). -/
def pageNeed (delay nf : Nat) : Nat := (delay + nf + 63) / 64

/-- FAR_DELAY can be taken: the far state is not ABSENT and D + Nf is at most 4096 (R65). -/
def Call.farDelayTaken (c : Call) (delay : Nat) : Bool := c.far != .absent && delay + c.settings.nf ≤ 4096

/-- The call of a taken FAR_DELAY with every far tap zeroed (R65). -/
def Call.zeroFarTaps (c : Call) : Call := { c with farTaps := zeroed c.farTaps }

/-- A request for pages (R62): granted at once when the wait list is empty and the need is no greater than the free
count; otherwise the context joins the tail of the wait list, becomes WAITING and latches FAR_WAITING. -/
def State.requestPages (s : State) (i : CtxNum) (c : Call) (delay need : Nat) : State :=
  if s.history.waitList.isEmpty && need ≤ s.history.freePages.length then
    (s.setContext i (.live (c.withFar (.filling (.granted delay (s.history.freePages.take need)))))).withHistory
      { s.history with freePages := s.history.freePages.drop need }
  else
    (s.setContext i (.live ((c.withFar (.waiting delay)).latch .farWaiting))).withWaitList
      (s.history.waitList ++ [(i, need)])

/-- The far state that a FAR_DELAY keeping the pages makes with the fill count (R67). -/
def Ring.redelayed (r : Ring) (delay nf : Nat) : FarSection :=
  if delay + nf ≤ r.fill then .active { r with delay := delay } else .filling { r with delay := delay }

/-- The call after a FAR_DELAY that keeps its pages (R67). -/
def Call.keepPages (c : Call) (r : Ring) (delay : Nat) : Call :=
  c.zeroFarTaps.withFar (r.redelayed delay c.settings.nf)

/-- The call of a taken FAR_DELAY that holds neither pages nor a place in the wait list, before its request. -/
def Call.unsetFar (c : Call) : Call := c.zeroFarTaps.withFar .unset

/-- A FAR_DELAY that gives up the pages held, in the order of R68: the pages are returned, the grant rule runs, and the
context makes its request. -/
def State.exchangePages (s : State) (i : CtxNum) (c : Call) (pages : List Page) (delay : Nat) : State :=
  ((s.setContext i (.live c.unsetFar)).returnPages pages).requestPages i c.unsetFar delay
    (pageNeed delay c.settings.nf)

/-- A FAR_DELAY taken while WAITING, in the order of R69: the context leaves the wait list, the grant rule runs, and the
context makes its request. -/
def State.requestAnew (s : State) (i : CtxNum) (c : Call) (delay : Nat) : State :=
  (((s.setContext i (.live c.unsetFar)).leaveWaitList i).runGrantRule).requestPages i c.unsetFar delay
    (pageNeed delay c.settings.nf)

/-- A taken FAR_DELAY, by the far state (R66 to R69). A FILLING section whose fill count already covers the new delay
becomes ACTIVE and latches FAR_ACTIVE. -/
def State.takeFarDelay (s : State) (i : CtxNum) (c : Call) (delay : Nat) : State :=
  match c.far with
  | .absent => s
  | .unset => s.requestPages i c.zeroFarTaps delay (pageNeed delay c.settings.nf)
  | .waiting _ => s.requestAnew i c delay
  | .filling r =>
    if pageNeed delay c.settings.nf ≤ r.pages.length then
      if delay + c.settings.nf ≤ r.fill then s.setContext i (.live ((c.keepPages r delay).latch .farActive))
      else s.setContext i (.live (c.keepPages r delay))
    else s.exchangePages i c r.pages delay
  | .active r =>
    if pageNeed delay c.settings.nf ≤ r.pages.length then s.setContext i (.live (c.keepPages r delay))
    else s.exchangePages i c r.pages delay

/-- A FAR_DELAY completing for a LIVE context: refused with FAR_REFUSED, or taken (R65). -/
def State.farDelayOutcome (i : CtxNum) (b : Vector Byte 17) (c : Call) (s : State) : State :=
  if c.farDelayTaken (delayParameter b) then s.takeFarDelay i c (delayParameter b)
  else s.setContext i (.live (c.latch .farRefused))

/-- A FAR_OFF completing for a LIVE context (R70). -/
def State.farOffOutcome (i : CtxNum) (_ : Vector Byte 17) (c : Call) (s : State) : State :=
  match c.far with
  | .absent | .unset => s
  | .waiting _ => ((s.setContext i (.live (c.withFar .unset))).leaveWaitList i).runGrantRule
  | .filling r => (s.setContext i (.live (c.withFar .unset))).returnPages r.pages
  | .active r => (s.setContext i (.live (c.withFar .unset))).returnPages r.pages

/-- FAR_DELAY (R65), kind code 4. -/
def execFarDelay (s : State) : Host.Outcome State Fault Refusal :=
  .next (s.completeControl (fun kind => kind == 4) State.farDelayOutcome)

/-- FAR_OFF (R70), kind code 5. -/
def execFarOff (s : State) : Host.Outcome State Fault Refusal :=
  .next (s.completeControl (fun kind => kind == 5) State.farOffOutcome)

end Sys2Proof.Machine
end

