-- ==== Sys2Proof/Machine/Highway.lean ====
section
/-! DEFINITION. Frame marks, the frame header and the highway watch: FRAME_MARK, MISSING_FRAME_MARK, HEADER_COMPLETE and
WATCH_TIMER_EXPIRY (R131, R139 to R142). -/

namespace Sys2Proof.Machine

/-- The good-frame count after a frame mark in UNSYNCED (R140). A mark is on time 6144 highway clocks after the previous
one. -/
def goodFramesAfter (count clocks : Nat) : Nat := if clocks = Config.frameClocks && 1 ≤ count then count + 1 else 1

/-- The parts of a frame that a mark or the expiry of the watch ends: a bid under way and the confirm of its round, and
an upstream half being driven (R138, R141, R151). -/
def State.endFrame (s : State) : State :=
  (s.withAdoption { s.adoption with bid := none, confirm := none }).withHighway
    { s.highway with upstreamHalf := none }

/-- A mark begins a new frame and restarts the watch (R139, R141). -/
def State.beginFrame (s : State) : State :=
  let ended := s.endFrame
  ended.withHighway { ended.highway with watch := some 0, lapsed := false }

/-- FRAME_MARK (R140, R141): in UNSYNCED and ACTIVE a new frame begins, what the previous one left unfinished is
abandoned, and the watch restarts. In UNSYNCED the good-frame count changes, and at 64 the station enters ACTIVE. In the
other states marks are not read (R142). -/
def execFrameMark (clocks : Nat) (s : State) : Host.Outcome State Fault Refusal :=
  match s.loader.station with
  | .unsynced =>
    let count := goodFramesAfter s.highway.goodFrames clocks
    let begun := s.beginFrame
    let counted := begun.withHighway { begun.highway with goodFrames := count }
    if count = Config.goodFramesToSync then .next (counted.withLoader { s.loader with station := .active })
    else .next counted
  | .active => .next s.beginFrame
  | .reset | .loading | .listenOnly => .next s

/-- MISSING_FRAME_MARK (R140, R141): in UNSYNCED the good-frame count becomes 0; in UNSYNCED and ACTIVE the station drives
and reads nothing until the next mark. -/
def execMissingFrameMark (s : State) : Host.Outcome State Fault Refusal :=
  match s.loader.station with
  | .unsynced => .next (s.endFrame.withHighway { s.endFrame.highway with goodFrames := 0, lapsed := true })
  | .active => .next (s.endFrame.withHighway { s.endFrame.highway with lapsed := true })
  | .reset | .loading | .listenOnly => .next s

/-- The frame number of a header: bits 5..0 of byte 0 (R165). -/
def headerFrameNumber (header : Vector Byte 32) : Lane := (header[0].extractLsb' 0 6 : BitVec 6).toFin

/-- HEADER_COMPLETE (R131): in UNSYNCED and ACTIVE the frame number seen becomes the number carried. -/
def execHeaderComplete (header : Vector Byte 32) (s : State) : Host.Outcome State Fault Refusal :=
  match s.loader.station with
  | .unsynced | .active =>
    if s.highway.lapsed then .next s
    else .next (s.withHighway { s.highway with frameNumber := some (headerFrameNumber header) })
  | .reset | .loading | .listenOnly => .next s

/-- Each of the contexts leaves LIVE (R10). -/
def State.leaveLiveEach : List CtxNum → State → State
  | [], s => s
  | i :: rest, s => State.leaveLiveEach rest (s.leaveLive i)

/-- Each of the contexts that the engine is not working on becomes FREE, in the order given (R10, R74). -/
def State.letGoEach : List CtxNum → State → State
  | [], s => s
  | i :: rest, s => State.letGoEach rest (s.letGo i)

/-- Highway loss (R10, R74, R139): every LIVE context becomes RELEASING, all of them leaving the wait list before the
grant rule runs; those the engine is not working on become FREE in ascending order; the pending-announcement table is
cleared and the lines released; the good-frame count is 0, the watch restarts, and the station is UNSYNCED. -/
def State.loseHighway (s : State) : State :=
  let released := State.letGoEach (List.finRange 24) (State.leaveLiveEach (List.finRange 24) s)
  ((released.withAdoption { released.adoption with
      announced := Vector.replicate 64 none, bid := none, confirm := none }).withHighway
    { s.highway with watch := some 0, goodFrames := 0, upstreamHalf := none }).withLoader
    { s.loader with station := .unsynced }

/-- WATCH_TIMER_EXPIRY (R139): in ACTIVE the highway is lost; in UNSYNCED the good-frame count becomes 0 and the timer
restarts. In the other states the timer does not run, and the command has no effect (notes/assumptions/4.md). -/
def execWatchTimerExpiry (s : State) : Host.Outcome State Fault Refusal :=
  match s.loader.station with
  | .active => .next s.loseHighway
  | .unsynced => .next (s.withHighway { s.highway with goodFrames := 0, watch := some 0 })
  | .reset | .loading | .listenOnly => .next s

/-- One local-oscillator period in which no command is taken: a running watch counts it, and at 65536 periods without a
restart it expires (R139; notes/assumptions/1.md). -/
def tick (s : State) : Host.Outcome State Fault Refusal :=
  match s.highway.watch with
  | some t =>
    if t + 1 < Config.watchPeriods then .next (s.withHighway { s.highway with watch := some (t + 1) })
    else execWatchTimerExpiry s
  | none => .next s

end Sys2Proof.Machine
end

