-- ==== Sys2Proof/Machine/Loading.lean ====
section
/-! DEFINITION. The reset pin, the straps, and the image loader: RESET_PIN_ASSERTED, RESET_PIN_RELEASED,
SIGNATURE_BLOCK_READ, HEADERS_READ, SCHEDULE_TABLE_READ and PROFILE_TABLE_READ (R146, R155 to R163, R170). -/

namespace Sys2Proof.Machine

/-! ### Bytes of the parameter image (R164, R170) -/

/-- The byte at an offset of a transaction, as an unsigned number. -/
def byteAt (bytes : List Byte) (offset : Nat) : Nat := (bytes[offset]?.getD 0).toNat

/-- A field of two bytes, most significant first. -/
def twoBytesAt (bytes : List Byte) (offset : Nat) : Nat := 256 * byteAt bytes offset + byteAt bytes (offset + 1)

/-- A field of three bytes, most significant first. -/
def threeBytesAt (bytes : List Byte) (offset : Nat) : Nat := 256 * twoBytesAt bytes offset + byteAt bytes (offset + 2)

/-- A field of four bytes, most significant first. -/
def fourBytesAt (bytes : List Byte) (offset : Nat) : Nat := 256 * threeBytesAt bytes offset + byteAt bytes (offset + 3)

/-- The four bytes a read transaction sends: the command byte 03 hex and three address bytes, the most significant first
(R158). -/
def SpiRead.commandBytes (r : SpiRead) : List Byte :=
  [0x03, BitVec.ofNat 8 (r.address / 65536), BitVec.ofNat 8 (r.address / 256), BitVec.ofNat 8 r.address]

/-! ### Signature block and headers (R160) -/

/-- The signature, the format revision and the header count pass their checks (R160). -/
def signatureGood (b : Vector Byte 8) : Bool :=
  b[0] == 0x4E && b[1] == 0x58 && b[2] == 0x32 && b[3] == 0x34 && b[4] == 1 && 1 ≤ b[5].toNat && b[5].toNat ≤ 4

/-- The n-th header: its kind, and its revision, length and pointer (R170). -/
def headerAt (bytes : List Byte) (n : Nat) : Nat × TableHeader :=
  (byteAt bytes (8 * n),
    { revision := byteAt bytes (8 * n + 1), length := twoBytesAt bytes (8 * n + 2),
      pointer := threeBytesAt bytes (8 * n + 4) })

/-- The header in use of a kind: the first of that kind in header order (R160). -/
def headerInUse (bytes : List Byte) (kind : Nat) : Option TableHeader :=
  (((List.range (bytes.length / 8)).map (headerAt bytes)).find? fun h => h.1 == kind).map Prod.snd

/-- The table revision is 1 and the extent lies within the 24-bit address space (R160). -/
def TableHeader.good (h : TableHeader) : Bool := h.revision == 1 && h.pointer + 4 * h.length ≤ Config.imageEnd

/-- The number of schedules read: the smaller of 8 and (length div 17) (R159). -/
def TableHeader.scheduleCount (h : TableHeader) : Nat := min 8 (h.length / 17)

/-- The number of profiles read: the smaller of 16 and (length div 8) (R159). -/
def TableHeader.profileCount (h : TableHeader) : Nat := min 16 (h.length / 8)

/-! ### Schedules (R161) -/

/-- The list of the values when every one is present. -/
def allPresent {α : Type} : List (Option α) → Option (List α)
  | [] => some []
  | some a :: rest => (allPresent rest).map (a :: ·)
  | none :: _ => none

/-- The equalizer mode of a mode code: 0 OFF, 1 REFERENCE, 2 DECISION (R161). -/
def eqModeOf : Nat → Option EqMode
  | 0 => some .off
  | 1 => some .reference
  | 2 => some .decision
  | _ => none

/-- An echo step shift is valid: 0, or 8..24 (R161). -/
def validSe (se : Nat) : Bool := se == 0 || (8 ≤ se && se ≤ 24)

/-- An equalizer step shift is valid: 0, or 6..24 (R161). -/
def validSw (sw : Nat) : Bool := sw == 0 || (6 ≤ sw && sw ≤ 24)

/-- The phase at an offset, when its fields are valid (R161, R170). -/
def phaseAt (bytes : List Byte) (o : Nat) : Option Phase :=
  match eqModeOf (byteAt bytes (o + 4)) with
  | some mode =>
    if validSe (byteAt bytes (o + 2)) && validSw (byteAt bytes (o + 3)) && byteAt bytes (o + 5) ≤ 15 then
      some { length := twoBytesAt bytes o, se := byteAt bytes (o + 2), sw := byteAt bytes (o + 3), mode := mode,
             leak := byteAt bytes (o + 5), farAdapt := (byteAt bytes (o + 6)).testBit 0 }
    else none
  | none => none

/-- The schedule entry at an offset: valid with a phase count of 1..8 and that many valid phases; the slots after the
phase count are not checked (R161). -/
def scheduleAt (bytes : List Byte) (o : Nat) : Option (List Phase) :=
  if 1 ≤ byteAt bytes o && byteAt bytes o ≤ 8 then
    allPresent ((List.range (byteAt bytes o)).map fun i => phaseAt bytes (o + 4 + 8 * i))
  else none

/-- The checked schedule table: `count` entries read, 68 bytes each; an entry not read is absent (R159, R161). -/
def scheduleTableOf (bytes : List Byte) (count : Nat) : Vector (Option (List Phase)) 8 :=
  Vector.ofFn fun j => if j.val < count then scheduleAt bytes (68 * j.val) else none

/-! ### Profiles (R146, R162) -/

/-- The symbol rate of a rate code (R146). -/
def symbolRate : Nat → Option Nat
  | 0 => some 1200
  | 1 => some 1600
  | 2 => some 2400
  | 3 => some 2800
  | 4 => some 3000
  | 5 => some 3200
  | _ => none

/-- The load points: ceil((2·Nn + 2·Nf + Ne) × R / 1000) (R146). -/
def loadPoints (nn nf ne rate : Nat) : Nat := ((2 * nn + 2 * nf + ne) * rate + 999) / 1000

/-- The gate of a gate code (R53). -/
def gateOf : Nat → Option Gate
  | 0 => some .internal
  | 1 => some .pump
  | 2 => some .pumpInverted
  | 3 => some .both
  | 4 => some .hold
  | _ => none

/-- The report mode of a report mode code: 0 EVERY, 1 FIRST, 2 NONE (R162). -/
def reportModeOf : Nat → Option ReportMode
  | 0 => some .every
  | 1 => some .first
  | 2 => some .none
  | _ => none

/-- The index of a schedule that the table holds as valid (R162). -/
def validScheduleIndex (table : Vector (Option (List Phase)) 8) (index : Nat) : Option (Fin 8) :=
  if h : index < 8 then (if table[index].isSome then some ⟨index, h⟩ else none) else none

/-- The range checks of R162 on a profile's values. -/
def Profile.inRange (p : Profile) : Bool :=
  p.levelsCode ≤ 3 && 1 ≤ p.grid && p.grid ≤ 32767 && (2 ^ (p.levelsCode + 1) - 1) * p.grid ≤ 32767
    && 1 ≤ p.nn && p.nn ≤ 64 && p.nf ≤ 64 && p.ne % 2 == 0 && 2 ≤ p.ne && p.ne ≤ 64
    && 1 ≤ p.ks && p.ks ≤ 12 && 1 ≤ p.kq && p.kq ≤ 12
    && p.tOff ≤ p.tOn && p.tConv < p.tDiv && p.load ≤ Config.stationLoad

/-- The profile entry at an offset, when every check of R162 holds, with its load points (R146, R162, R170). -/
def profileAt (table : Vector (Option (List Phase)) 8) (bytes : List Byte) (o : Nat) : Option Profile :=
  match symbolRate (byteAt bytes o), gateOf (byteAt bytes (o + 10)), reportModeOf (byteAt bytes (o + 11)),
      validScheduleIndex table (byteAt bytes (o + 7)) with
  | some rate, some gate, some report, some schedule =>
    let p : Profile :=
      { rateCode := byteAt bytes o, levelsCode := byteAt bytes (o + 1), grid := twoBytesAt bytes (o + 2)
        nn := byteAt bytes (o + 4), nf := byteAt bytes (o + 5), ne := byteAt bytes (o + 6), schedule := schedule
        ks := byteAt bytes (o + 8), kq := byteAt bytes (o + 9), gate := gate, reportMode := report
        signalRise := (byteAt bytes (o + 12)).testBit 0, signalFall := (byteAt bytes (o + 12)).testBit 1
        errorRise := (byteAt bytes (o + 12)).testBit 2, errorFall := (byteAt bytes (o + 12)).testBit 3
        clipEnable := (byteAt bytes (o + 12)).testBit 4
        tOn := fourBytesAt bytes (o + 16), tOff := fourBytesAt bytes (o + 20)
        tConv := fourBytesAt bytes (o + 24), tDiv := fourBytesAt bytes (o + 28)
        load := loadPoints (byteAt bytes (o + 4)) (byteAt bytes (o + 5)) (byteAt bytes (o + 6)) rate }
    if p.inRange then some p else none
  | _, _, _, _ => none

/-- The checked profile table: `count` entries read, 32 bytes each; an entry not read is absent (R159, R162). -/
def profileTableOf (table : Vector (Option (List Phase)) 8) (bytes : List Byte) (count : Nat) :
    Vector (Option Profile) 16 :=
  Vector.ofFn fun i => if i.val < count then profileAt table bytes (32 * i.val) else none

/-! ### The load (R159, R163) -/

/-- The end of the load: the checked tables are installed, and the station enters UNSYNCED when at least one profile is
valid, and LISTEN_ONLY with the fault pin low when none is (R163). At the entry to UNSYNCED the good-frame count is 0
and the watch starts (R139, R140). -/
def State.endLoad (s : State) (profiles : Vector (Option Profile) 16)
    (schedules : Vector (Option (List Phase)) 8) : State :=
  if profiles.toList.any Option.isSome then
    (s.withLoader { station := .unsynced, profiles := profiles, schedules := schedules, loadStep := .idle,
                    spi := none, faultLow := false }).withHighway
      { s.highway with goodFrames := 0, watch := some 0, lapsed := false }
  else
    s.withLoader { station := .listenOnly, profiles := profiles, schedules := schedules, loadStep := .idle,
                   spi := none, faultLow := true }

/-- A total fault: the select is released, no further transaction is made, and the load ends with every profile absent
(R159). -/
def State.totalFault (s : State) : State := s.endLoad (Vector.replicate 16 none) (Vector.replicate 8 none)

/-- The loader goes on to a transaction. -/
def State.startRead (s : State) (step : LoadStep) (address count : Nat) : State :=
  s.withLoader { s.loader with loadStep := step, spi := some { address := address, count := count } }

/-- The bytes are those of the whole transaction in progress (notes/assumptions/12.md). -/
def State.readComplete (s : State) (bytes : List Byte) : Bool :=
  match s.loader.spi with
  | some r => bytes.length == r.count
  | none => false

/-- The five strap values have odd parity (R157). -/
def strapParityGood (stationBits : BitVec 4) (parityPin : Bool) : Bool :=
  (stationBits.getLsbD 3 ^^ stationBits.getLsbD 2 ^^ stationBits.getLsbD 1 ^^ stationBits.getLsbD 0 ^^ parityPin)

/-! ### The commands -/

/-- RESET_PIN_ASSERTED (R156): from any state, everything the station holds takes its reset value. -/
def execResetPinAsserted (s : State) : Host.Outcome State Fault Refusal := .next s.underReset

/-- RESET_PIN_RELEASED (R157): the station enters LOADING and reads its straps; with good parity the station number is
taken and the read of the signature block begins, with bad parity it enters LISTEN_ONLY in the same event. Outside RESET
the pin is not asserted and the command has no effect (notes/assumptions/4.md). -/
def execResetPinReleased (stationBits : BitVec 4) (parityPin : Bool) (s : State) : Host.Outcome State Fault Refusal :=
  if s.loader.station = .reset then
    if strapParityGood stationBits parityPin then
      .next (((s.withLoader { s.loader with station := .loading }).startRead .signature 0 8).withAdoption
        { s.adoption with stationNumber := some stationBits })
    else .next (s.withLoader { s.loader with station := .listenOnly, faultLow := true })
  else .next s

/-- SIGNATURE_BLOCK_READ (R160): the checks of the signature block; then the read of the headers, 8·h bytes from address
8, or a total fault. -/
def execSignatureBlockRead (bytes : Vector Byte 8) (s : State) : Host.Outcome State Fault Refusal :=
  match s.loader.loadStep with
  | .signature =>
    if signatureGood bytes then .next (s.startRead .headers 8 (8 * bytes[5].toNat)) else .next s.totalFault
  | .idle | .headers | .scheduleTable _ _ | .profileTable _ _ => .next s

/-- HEADERS_READ (R160): the checks of the headers in use; then the read of the schedule table, or a total fault. -/
def execHeadersRead (bytes : List Byte) (s : State) : Host.Outcome State Fault Refusal :=
  match s.loader.loadStep with
  | .headers =>
    if s.readComplete bytes then
      match headerInUse bytes 1, headerInUse bytes 2 with
      | some profiles, some schedules =>
        if profiles.good && schedules.good then
          .next (s.startRead (.scheduleTable schedules profiles) schedules.pointer (68 * schedules.scheduleCount))
        else .next s.totalFault
      | _, _ => .next s.totalFault
    else .next s
  | .idle | .signature | .scheduleTable _ _ | .profileTable _ _ => .next s

/-- SCHEDULE_TABLE_READ (R161): each schedule read is validated; then the read of the profile table. -/
def execScheduleTableRead (bytes : List Byte) (s : State) : Host.Outcome State Fault Refusal :=
  match s.loader.loadStep with
  | .scheduleTable schedules profiles =>
    if s.readComplete bytes then
      .next (s.startRead (.profileTable (scheduleTableOf bytes schedules.scheduleCount) profiles) profiles.pointer
        (32 * profiles.profileCount))
    else .next s
  | .idle | .signature | .headers | .profileTable _ _ => .next s

/-- PROFILE_TABLE_READ (R162): each profile read is validated, and the load ends (R163). -/
def execProfileTableRead (bytes : List Byte) (s : State) : Host.Outcome State Fault Refusal :=
  match s.loader.loadStep with
  | .profileTable table profiles =>
    if s.readComplete bytes then .next (s.endLoad (profileTableOf table bytes profiles.profileCount) table)
    else .next s
  | .idle | .signature | .headers | .scheduleTable _ _ => .next s

end Sys2Proof.Machine
end

