-- ==== Sys2Proof/Machine/Stages.lean ====
section
/-! DEFINITION. SAMPLE_ENTRY_COMPLETION: the twelve stages of a SAMPLE entry (Table 2-1; R26 to R31), with the
arithmetic of chapters 3 to 7. -/

namespace Sys2Proof.Machine

/-- A SAMPLE entry partway through its stages: its context's call, history memory, and the conditions latched so far,
which all enter the condition set at the completion (R30). -/
structure Progress where
  call    : Call
  cells   : List (Nat × Sample)
  latched : List Condition
  deriving DecidableEq, Repr

/-- The values that stages 3 to 7 of an entry produce, with whether a residual and the soft symbol were clamped. -/
structure SampleValues where
  y0              : Sample
  y1              : Sample
  e0              : Sample
  e1              : Sample
  residualClamped : Bool
  soft            : Sample
  softClamped     : Bool
  decision        : Sample
  error           : Sample
  deriving DecidableEq, Repr

/-! ### Stages 1 and 2: gap fill and history write (R27, R28, R72) -/

/-- A ring write of one symbol. In far states without pages the ring receives nothing (R72). -/
def Progress.writeRing (p : Progress) (x : Sample) : Progress :=
  match p.call.far with
  | .filling r =>
    if r.delay + p.call.settings.nf ≤ r.advance.fill then
      { call := p.call.withFar (.active r.advance), cells := r.put p.cells x,
        latched := p.latched ++ [.farActive] }
    else { p with call := p.call.withFar (.filling r.advance), cells := r.put p.cells x }
  | .active r => { p with call := p.call.withFar (.active r.advance), cells := r.put p.cells x }
  | .absent | .unset | .waiting _ => p

/-- `n` ring writes of the value (0, 0) (R27). -/
def Progress.writeZeros : Nat → Progress → Progress
  | 0, p => p
  | n + 1, p => Progress.writeZeros n (p.writeRing Cplx.zero)

/-- Stage 1: the g missing symbols fill the near line, the ring and the equalizer line, the stamp advances by g, and GAP
is latched; with g = 0 nothing changes (R27). -/
def Progress.gapFill (p : Progress) (gap : BitVec 4) : Progress :=
  if gap = 0 then p
  else
    let g := gap.toNat
    let q := Progress.writeZeros g p
    { call := { q.call with nearLine := shiftZeros g q.call.nearLine, eqLine := shiftZeros (2 * g) q.call.eqLine,
                            stamp := q.call.stamp + gap.setWidth 16 }
      cells := q.cells, latched := q.latched ++ [.gap] }

/-- Stage 2: x(n) enters the near line and, when pages are held, the ring; the stamp advances by 1 (R28). -/
def Progress.historyWrite (p : Progress) (x : Sample) : Progress :=
  let q := p.writeRing x
  { q with call := { q.call with nearLine := shiftIn x q.call.nearLine, stamp := q.call.stamp + 1 } }

/-! ### Stages 3 to 7: replica, residual, equalizer, slicer, error -/

/-- The far symbols of the entry: x(n−D−k) for k = 0..Nf−1 when the far state after stage 2 is ACTIVE, and none
otherwise (R45, R73). -/
def Progress.farWindow (p : Progress) : List Sample :=
  match p.call.far with
  | .active r => r.window p.cells p.call.settings.nf
  | .absent | .unset | .waiting _ | .filling _ => []

/-- The replica of one sample phase: sat16(round_22(acc_p)), from the near taps and line and the far taps and window
(R44, R46). -/
def replica (near : List Tap) (line : List Sample) (far : List Tap) (window : List Sample) : Sample :=
  saturate 16 (roundParts 22 ((dot near line).add (dot far window)))

/-- M, the number of levels per axis (R80). -/
def Profile.levels (p : Profile) : Nat := 2 ^ (p.levelsCode + 1)

/-- The slicer on one part: level index floor((v + M·g_s) / (2·g_s)) clamped to 0..M−1, and the level
(2i − M + 1)·g_s (R81). -/
def slicePart (levels grid : Nat) (v : Int) : Int :=
  let i := max 0 (min ((levels : Int) - 1) ((v + levels * grid) / (2 * grid)))
  (2 * i - levels + 1) * grid

/-- The decision for a soft symbol (R81). -/
def slice (p : Profile) (z : Sample) : Sample :=
  ⟨BitVec.ofInt 16 (slicePart p.levels p.grid z.i.toInt), BitVec.ofInt 16 (slicePart p.levels p.grid z.q.toInt)⟩

/-- Stages 3 to 7 of an entry, from the lines, ring and far state after stage 2 and the taps before the entry's own
updates (R28, R44 to R47, R76, R78 to R83). -/
def Progress.values (p : Progress) (e : SampleEntry) : SampleValues :=
  let c := p.call
  let window := p.farWindow
  let y0 := replica (c.nearTaps.take c.settings.nn) c.nearLine (c.farTaps.take c.settings.nf) window
  let y1 := replica (c.nearTaps.drop c.settings.nn) c.nearLine (c.farTaps.drop c.settings.nf) window
  let d0 := e.r0.toCInt.sub y0.toCInt
  let d1 := e.r1.toCInt.sub y1.toCInt
  let e0 : Sample := saturate 16 d0
  let e1 : Sample := saturate 16 d1
  let output := roundParts 22 (dot c.eqTaps (shiftIn e1 (shiftIn e0 c.eqLine)))
  let z : Sample := saturate 16 output
  let d := slice c.settings z
  { y0 := y0, y1 := y1, e0 := e0, e1 := e1, residualClamped := clamps 16 d0 || clamps 16 d1
    soft := z, softClamped := clamps 16 output, decision := d
    error := saturate 16 ((e.reference.getD d).toCInt.sub z.toCInt) }

/-- What stages 4 and 5 leave in the context: the residuals e0 and then e1 shifted into the equalizer line, and
RESIDUAL_CLIP and SOFT_CLIP (R47, R76, R79). -/
def Progress.filter (p : Progress) (v : SampleValues) : Progress :=
  { p with call := { p.call with eqLine := shiftIn v.e1 (shiftIn v.e0 p.call.eqLine) }
           latched := p.latched ++ latchWhen v.residualClamped .residualClip ++ latchWhen v.softClamped .softClip }

/-! ### Stage 8: the monitors (R107 to R111) -/

/-- A first-order average: A − floor(A / 2^K) + floor(x / 2^K) (R107, R110). -/
def averaged (a shift x : Nat) : Nat := a - a / 2 ^ shift + x / 2 ^ shift

/-- The signal state after the comparison with the thresholds (R108). -/
def signalAfter (before : SignalState) (power tOn tOff : Nat) : SignalState :=
  match before with
  | .absent => if tOn ≤ power then .present else .absent
  | .present => if power < tOff then .absent else .present

/-- The error state after the comparison with the thresholds (R111). -/
def errorAfter (before : ErrorState) (power tConv tDiv : Nat) : ErrorState :=
  match before with
  | .unsettled => if power < tConv then .settled else .unsettled
  | .settled => if tDiv < power then .unsettled else .settled

/-- The signal monitor: P is replaced by its average with x_s = floor((|e0|² + |e1|²) / 2), the signal state is compared
anew, and an enabled crossing latches SIGNAL_ON or SIGNAL_OFF (R107, R108). -/
def Progress.signalMonitor (p : Progress) (v : SampleValues) : Progress :=
  let s := p.call.settings
  let power := averaged p.call.signalPower s.ks ((squaredMagnitude v.e0 + squaredMagnitude v.e1) / 2)
  let state := signalAfter p.call.signalState power s.tOn s.tOff
  { p with call := { p.call with signalPower := power, signalState := state }
           latched := p.latched
             ++ latchWhen (p.call.signalState == .absent && state == .present && s.signalRise) .signalOn
             ++ latchWhen (p.call.signalState == .present && state == .absent && s.signalFall) .signalOff }

/-- The error monitor, when it is on: Q is replaced by its average with |ε|², the error state is compared anew, and an
enabled crossing latches CONVERGED, or latches DIVERGED and sets the hold flag (R110, R111, R90). When it is off nothing
changes (R109). -/
def Progress.errorMonitor (p : Progress) (v : SampleValues) : Progress :=
  let s := p.call.settings
  if s.errorMonitorOn then
    let power := averaged p.call.errorPower s.kq (squaredMagnitude v.error)
    let state := errorAfter p.call.errorState power s.tConv s.tDiv
    let diverged := p.call.errorState == .settled && state == .unsettled && s.errorRise
    { p with call := { p.call with errorPower := power, errorState := state, hold := p.call.hold || diverged }
             latched := p.latched
               ++ latchWhen (p.call.errorState == .unsettled && state == .settled && s.errorFall) .converged
               ++ latchWhen diverged .diverged }
  else p

/-! ### Stage 9: echo adaptation (R48 to R54) -/

/-- The echo gate of an entry, from the signal state after stage 8 and the QUIET tag (R53). -/
def gateOpen (gate : Gate) (signal : SignalState) (quiet : Bool) : Bool :=
  match gate with
  | .internal => signal == .absent
  | .pump => quiet
  | .pumpInverted => !quiet
  | .both => signal == .absent && quiet
  | .hold => false

/-- One tap plus its step: sat24(tap + round_S(e·conj(x))), and whether the update clamped it (R48, R49, R87). -/
def stepTap (shift : Nat) (e x : Sample) (base : CInt) : Tap × Bool :=
  let sum := base.add (roundParts shift (updateProduct e.toCInt x.toCInt))
  (saturate 24 sum, clamps 24 sum)

/-- The updates of the taps of one sample phase over the symbols they multiplied (R48, R49). -/
def stepTaps (shift : Nat) (e : Sample) (taps : List Tap) (xs : List Sample) : List (Tap × Bool) :=
  List.zipWith (fun t x => stepTap shift e x t.toCInt) taps xs

/-- The updates of a section of two sample phases of `n` taps each: e0 drives the first, e1 the second. -/
def stepSection (shift : Nat) (v : SampleValues) (n : Nat) (taps : List Tap) (xs : List Sample) : List (Tap × Bool) :=
  stepTaps shift v.e0 (taps.take n) xs ++ stepTaps shift v.e1 (taps.drop n) xs

/-- Stage 9 may update the near taps: not frozen, not paused, not CLIPPED, Se ≠ 0, and the gate open (R29, R48). -/
def Call.echoAdapts (c : Call) (ph : Phase) (e : SampleEntry) : Bool :=
  !c.frozen && !c.paused && !e.clipped && ph.se != 0 && gateOpen c.settings.gate c.signalState e.quiet

/-- The far state is ACTIVE. -/
def FarSection.isActive : FarSection → Bool
  | .active _ => true
  | .absent | .unset | .waiting _ | .filling _ => false

/-- Stage 9: INPUT_CLIP for a clipped record; the near taps when permitted, and with them the far taps when the phase has
far-adapt on and the far state is ACTIVE; TAP_CLIP when an update clamps (R48, R49, R51, R52). -/
def Progress.echoAdaptation (p : Progress) (ph : Phase) (e : SampleEntry) (v : SampleValues) : Progress :=
  let q := { p with latched := p.latched ++ latchWhen e.clipped .inputClip }
  if p.call.echoAdapts ph e then
    let near := stepSection ph.se v p.call.settings.nn p.call.nearTaps p.call.nearLine
    if ph.farAdapt && p.call.far.isActive then
      let far := stepSection ph.se v p.call.settings.nf p.call.farTaps p.farWindow
      { q with call := { p.call with nearTaps := near.map Prod.fst, farTaps := far.map Prod.fst }
               latched := q.latched ++ latchWhen ((near ++ far).any Prod.snd) .tapClip }
    else
      { q with call := { p.call with nearTaps := near.map Prod.fst }
               latched := q.latched ++ latchWhen (near.any Prod.snd) .tapClip }
  else q

/-! ### Stage 10: equalizer adaptation (R86 to R89) -/

/-- The equalizer mode permits adaptation from the entry's error (R86). -/
def modePermits (mode : EqMode) (reference : Option Sample) : Bool :=
  match mode with
  | .off => false
  | .reference => reference.isSome
  | .decision => true

/-- Stage 10 may update the taps: not frozen, not paused, not held, not CLIPPED, Sw ≠ 0, and the mode permits (R87). -/
def Call.eqAdapts (c : Call) (ph : Phase) (e : SampleEntry) : Bool :=
  !c.frozen && !c.paused && !c.hold && !e.clipped && ph.sw != 0 && modePermits ph.mode e.reference

/-- The leak of one tap part, v − round_L(v); with L = 0 the part is kept (R87, R88). -/
def leakPart (leak : Nat) (v : Int) : Int := if leak = 0 then v else v - roundShift leak v

/-- The leak of each part of a tap (R88). -/
def leakTap (leak : Nat) (t : Tap) : CInt := ⟨leakPart leak t.i.toInt, leakPart leak t.q.toInt⟩

/-- Stage 10: each tap is leaked and then stepped, when permitted; TAP_CLIP when a step clamps (R87 to R89). -/
def Progress.eqAdaptation (p : Progress) (ph : Phase) (e : SampleEntry) (v : SampleValues) : Progress :=
  if p.call.eqAdapts ph e then
    let taps := List.zipWith (fun t x => stepTap ph.sw v.error x (leakTap ph.leak t)) p.call.eqTaps p.call.eqLine
    { p with call := { p.call with eqTaps := taps.map Prod.fst }
             latched := p.latched ++ latchWhen (taps.any Prod.snd) .tapClip }
  else p

/-! ### Stages 11 and 12: schedule and result -/

/-- Stage 11: unless frozen or paused the record is counted, and the cursor leaves a phase of nonzero length when the
count reaches it (R96, R97). -/
def Progress.schedule (p : Progress) (ph : Phase) (phaseCount : Nat) : Progress :=
  let c := p.call
  if c.frozen || c.paused then p
  else if ph.length = 0 then { p with call := { c with count := if c.count < 65535 then c.count + 1 else c.count } }
  else if c.count + 1 < ph.length then { p with call := { c with count := c.count + 1 } }
  else if c.count + 1 = ph.length then
    if c.phase + 1 < phaseCount then
      { p with call := { c with phase := c.phase + 1, count := 0 }, latched := p.latched ++ [.phaseEntered] }
    else { p with call := { c with count := c.count + 1 }, latched := p.latched ++ [.scheduleEnd] }
  else p

/-- Stage 12: the RESULT at the tail of the output queue; a full queue loses its head, with OUTPUT_LOST (R17, R31). -/
def Progress.result (p : Progress) (v : SampleValues) : Progress :=
  let r : ResultEntry := { soft := v.soft, decision := v.decision, error := v.error, stamp := p.call.stamp }
  if p.call.outputQueue.length < Config.outputCapacity then
    { p with call := { p.call with outputQueue := p.call.outputQueue ++ [r] } }
  else
    { p with call := { p.call with outputQueue := p.call.outputQueue.tail ++ [r] }
             latched := p.latched ++ [.outputLost] }

/-! ### The whole entry -/

/-- Stages 1 and 2 of an entry. -/
def historyStages (e : SampleEntry) (c : Call) (cells : List (Nat × Sample)) : Progress :=
  (Progress.gapFill { call := c, cells := cells, latched := [] } e.gap).historyWrite e.symbol

/-- Stages 3 to 12 of an entry, from its state after stage 2 (R26). -/
def laterStages (ph : Phase) (phaseCount : Nat) (e : SampleEntry) (p : Progress) : Progress :=
  let v := p.values e
  ((((((p.filter v).signalMonitor v).errorMonitor v).echoAdaptation ph e v).eqAdaptation ph e v).schedule ph
    phaseCount).result v

/-- All twelve stages of an entry, in order (R26). -/
def sampleStages (ph : Phase) (phaseCount : Nat) (e : SampleEntry) (c : Call) (cells : List (Nat × Sample)) : Progress :=
  laterStages ph phaseCount e (historyStages e c cells)

/-- The current schedule phase of a call, at its cursor, and its schedule's phase count (R94, R95). -/
def State.currentPhase (s : State) (c : Call) : Option (Phase × Nat) :=
  match s.loader.schedules[c.settings.schedule] with
  | some phases => phases[c.phase]?.map fun ph => (ph, phases.length)
  | none => none

/-- The call of an entry that has been through its stages, with their conditions latched (R30). -/
def Progress.complete (p : Progress) : Call := p.call.latchAll p.latched

/-- The outcome of a SAMPLE entry for the LIVE context `i`: its stages, and their conditions latched in the same event
(R25, R30). -/
def State.sampleOutcome (i : CtxNum) (e : SampleEntry) (ph : Phase) (phaseCount : Nat) (c : Call) (s : State) : State :=
  let p := sampleStages ph phaseCount e c s.history.cells
  (s.setContext i (.live p.complete)).withHistory { s.history with cells := p.cells }

/-- SAMPLE_ENTRY_COMPLETION (R26): the whole outcome of the twelve stages, or its discard when the context is RELEASING
(R9); then the engine takes its next entry. A command with no SAMPLE entry in the engine has no effect
(notes/assumptions/4.md). -/
def execSampleEntryCompletion (s : State) : Host.Outcome State Fault Refusal :=
  match s.engine.job with
  | some { context := i, entry := .sample e } =>
    match s.contexts[i] with
    | .live c =>
      match s.currentPhase c with
      | some (ph, phaseCount) => .next (s.completeFor i (State.sampleOutcome i e ph phaseCount))
      | none => .fault .noCurrentPhase
    | .free | .releasing _ => .next (s.completeFor i fun _ t => t)
  | some { context := _, entry := .control _ } => .next s
  | none => .next s

end Sys2Proof.Machine
end

