-- ==== Sys2Proof/Machine/Controls.lean ====
section
/-! DEFINITION. The controls FREEZE, THAW, RETRAIN and CLEAR, and the control of an unknown kind (R33, R99 to R103,
R117). -/

namespace Sys2Proof.Machine

/-- FREEZE sets the frozen flag (R99). -/
def State.freezeOutcome (i : CtxNum) (_ : Vector Byte 17) (c : Call) (s : State) : State :=
  s.setContext i (.live { c with frozen := true })

/-- THAW clears the frozen flag (R100). -/
def State.thawOutcome (i : CtxNum) (_ : Vector Byte 17) (c : Call) (s : State) : State :=
  s.setContext i (.live { c with frozen := false })

/-- A running export is aborted: its record is removed and EXPORT_ABORTED is latched; with none running nothing happens
(R103, R122). -/
def Call.abortExport (c : Call) : Call :=
  match c.exportRun with
  | some _ => { c with exportRun := none }.latch .exportAborted
  | none => c

/-- The taps after a RETRAIN's options: zeroed when the option is set, kept when it is clear (R102). -/
def Call.retrainTaps (c : Call) (zeroEq zeroEcho : Bool) : Call :=
  { c with eqTaps := if zeroEq then zeroed c.eqTaps else c.eqTaps
           nearTaps := if zeroEcho then zeroed c.nearTaps else c.nearTaps
           farTaps := if zeroEcho then zeroed c.farTaps else c.farTaps }

/-- The cursor to phase 0 with count 0, the hold cleared, and the error monitor as at adoption (R101, steps 1 to 3). -/
def Call.restart (c : Call) : Call :=
  { c with phase := 0, count := 0, hold := false, errorState := .unsettled
           errorPower := c.settings.initialErrorPower }

/-- RETRAIN's effect on its call: the restart, the taps by the two options, and a running export aborted (R101). -/
def Call.retrain (c : Call) (zeroEq zeroEcho : Bool) : Call := (c.restart.retrainTaps zeroEq zeroEcho).abortExport

/-- RETRAIN completing for a LIVE context (R101). -/
def State.retrainOutcome (i : CtxNum) (b : Vector Byte 17) (c : Call) (s : State) : State :=
  s.setContext i (.live (c.retrain (zeroEqOption b) (zeroEchoOption b)))

/-- CLEAR's effect on its call: the conditions the mask names leave the set, the first-reported flag is cleared, and the
hold is cleared when the mask names DIVERGED (R117). -/
def Call.clear (c : Call) (mask : BitVec 19) : Call :=
  { c with conditions := c.conditions &&& ~~~mask, firstReported := false
           hold := if mask.getLsbD 0 then false else c.hold }

/-- CLEAR completing for a LIVE context (R117). -/
def State.clearOutcome (i : CtxNum) (b : Vector Byte 17) (c : Call) (s : State) : State :=
  s.setContext i (.live (c.clear (maskParameter b)))

/-- FREEZE (R99), kind code 1. -/
def execFreeze (s : State) : Host.Outcome State Fault Refusal :=
  .next (s.completeControl (fun kind => kind == 1) State.freezeOutcome)

/-- THAW (R100), kind code 2. -/
def execThaw (s : State) : Host.Outcome State Fault Refusal :=
  .next (s.completeControl (fun kind => kind == 2) State.thawOutcome)

/-- RETRAIN (R101), kind code 3. -/
def execRetrain (s : State) : Host.Outcome State Fault Refusal :=
  .next (s.completeControl (fun kind => kind == 3) State.retrainOutcome)

/-- CLEAR (R117), kind code 6. -/
def execClear (s : State) : Host.Outcome State Fault Refusal :=
  .next (s.completeControl (fun kind => kind == 6) State.clearOutcome)

/-- A CONTROL of an unknown kind completes without effect on its context (R33). -/
def execUnknownControl (s : State) : Host.Outcome State Fault Refusal :=
  .next (s.completeControl isUnknownKind fun _ _ _ t => t)

end Sys2Proof.Machine
end

