-- ==== Sys2Proof/Machine/Taps.lean ====
section
/-! DEFINITION. Sections and segments, and the controls EXPORT and IMPORT (R119 to R122, R128, R129). -/

namespace Sys2Proof.Machine

/-- The taps of a section, in section order (R119). -/
def Call.sectionTaps (c : Call) : TapSection → List Tap
  | .near => c.nearTaps
  | .far => c.farTaps
  | .eq => c.eqTaps

/-- The call with the taps of a section replaced. -/
def Call.withSection (c : Call) (part : TapSection) (taps : List Tap) : Call :=
  match part with
  | .near => { c with nearTaps := taps }
  | .far => { c with farTaps := taps }
  | .eq => { c with eqTaps := taps }

/-- The number of segments of a section: Nn, Nf and Ne/2 (R119). -/
def Profile.segments (p : Profile) : TapSection → Nat
  | .near => p.nn
  | .far => p.nf
  | .eq => p.ne / 2

/-- The number of segments of what a section code names: none for a code that names no section (R119). -/
def Profile.segmentsOf (p : Profile) : Option TapSection → Nat
  | some part => p.segments part
  | none => 0

/-- The tap at a place of a section (R119). -/
def Call.tapAt (c : Call) (part : TapSection) (place : Nat) : Tap := (c.sectionTaps part)[place]?.getD Cplx.zero

/-- The last segment of an export: S − 1 when the count is 0, otherwise first + count − 1, cut to S − 1 (R121). -/
def lastSegment (segments first count : Nat) : Nat :=
  if count = 0 then segments - 1 else min (first + count - 1) (segments - 1)

/-- The new EXPORT set up: EXPORT_DONE at once when the first segment is past the section, otherwise its export record
(R121). -/
def Call.startExport (c : Call) (part : Option TapSection) (first count : Nat) (consistent : Bool) : Call :=
  match part with
  | some sec =>
    if first < c.settings.segments sec then
      { c with exportRun := some { part := sec, next := first,
                                   last := lastSegment (c.settings.segments sec) first count,
                                   consistent := consistent } }
    else c.latch .exportDone
  | none => c.latch .exportDone

/-- EXPORT: a running export is replaced, and the new one set up (R121, R122). -/
def State.exportOutcome (i : CtxNum) (b : Vector Byte 17) (c : Call) (s : State) : State :=
  s.setContext i (.live (c.abortExport.startExport (sectionParameter b) (segmentParameter b) (countParameter b)
    (consistentParameter b)))

/-- An IMPORT is accepted: the frozen flag is set, and the named section has the segment (R128). -/
def Call.importAccepted (c : Call) (part : Option TapSection) (segment : Nat) : Bool :=
  c.frozen && segment < c.settings.segmentsOf part

/-- The two taps of an accepted IMPORT written at places 2m and 2m + 1 of the section (R128). -/
def Call.importTaps (c : Call) (part : TapSection) (segment : Nat) (first second : Tap) : Call :=
  c.withSection part (((c.sectionTaps part).set (2 * segment) first).set (2 * segment + 1) second)

/-- IMPORT: two taps written when accepted, IMPORT_REFUSED otherwise (R128, R129). -/
def State.importOutcome (i : CtxNum) (b : Vector Byte 17) (c : Call) (s : State) : State :=
  match sectionParameter b with
  | some part =>
    if c.importAccepted (some part) (segmentParameter b) then
      s.setContext i (.live (c.importTaps part (segmentParameter b) (firstTapParameter b) (secondTapParameter b)))
    else s.setContext i (.live (c.latch .importRefused))
  | none => s.setContext i (.live (c.latch .importRefused))

/-- EXPORT (R121), kind code 7. -/
def execExport (s : State) : Host.Outcome State Fault Refusal :=
  .next (s.completeControl (fun kind => kind == 7) State.exportOutcome)

/-- IMPORT (R128), kind code 8. -/
def execImport (s : State) : Host.Outcome State Fault Refusal :=
  .next (s.completeControl (fun kind => kind == 8) State.importOutcome)

end Sys2Proof.Machine
end

