-- ==== Sys2Proof/Machine/Upstream.lean ====
section
/-! DEFINITION. UPSTREAM_WRITE: the choice, the contents and the bytes of the record written to a lane's upstream half
(R113, R116, R123, R124, R136 to R138, R168). -/

namespace Sys2Proof.Machine

/-- An upstream record (R168); the status code stands in each. -/
inductive UpstreamRecord where
  | idle (code : Byte)
  | result (code : Byte) (r : ResultEntry)
  | status (code : Byte) (stamp : BitVec 16) (conditions : BitVec 19) (signal : SignalState) (error : ErrorState)
      (signalPower errorPower : BitVec 32)
  | segment (code : Byte) (last : Bool) (stamp : BitVec 16) (part : TapSection) (number : Byte) (first second : Tap)
  deriving DecidableEq, Repr

/-- Byte 7 of a STATUS: bit 0 the signal state, 1 PRESENT; bit 1 the error state, 1 SETTLED (R168). -/
def stateByte (signal : SignalState) (error : ErrorState) : Byte :=
  (if signal = .present then 1 else 0) ||| (if error = .settled then 2 else 0)

/-- The 18 bytes of an upstream record: the kind in bits 7..4 of byte 0 (IDLE 0, RESULT 1, STATUS 2, SEGMENT 3), the
status code in byte 1, and every spare byte and bit written as 0 (R166, R168). -/
def UpstreamRecord.bytes : UpstreamRecord → Vector Byte 18
  | .idle code => #v[0x00, code, 0, 0, 0, 0, 0, 0, 0, 0, 0, 0, 0, 0, 0, 0, 0, 0]
  | .result code r =>
    #v[0x10, code, byteOf 1 r.stamp, byteOf 0 r.stamp,
       byteOf 1 r.soft.i, byteOf 0 r.soft.i, byteOf 1 r.soft.q, byteOf 0 r.soft.q,
       byteOf 1 r.decision.i, byteOf 0 r.decision.i, byteOf 1 r.decision.q, byteOf 0 r.decision.q,
       byteOf 1 r.error.i, byteOf 0 r.error.i, byteOf 1 r.error.q, byteOf 0 r.error.q, 0, 0]
  | .status code stamp conditions signal error p q =>
    #v[0x20, code, byteOf 1 stamp, byteOf 0 stamp,
       byteOf 2 conditions, byteOf 1 conditions, byteOf 0 conditions, stateByte signal error,
       byteOf 3 p, byteOf 2 p, byteOf 1 p, byteOf 0 p, byteOf 3 q, byteOf 2 q, byteOf 1 q, byteOf 0 q, 0, 0]
  | .segment code last stamp part number first second =>
    #v[(if last then 0x31 else 0x30), code, byteOf 1 stamp, byteOf 0 stamp, sectionCode part, number,
       byteOf 2 first.i, byteOf 1 first.i, byteOf 0 first.i, byteOf 2 first.q, byteOf 1 first.q, byteOf 0 first.q,
       byteOf 2 second.i, byteOf 1 second.i, byteOf 0 second.i, byteOf 2 second.q, byteOf 1 second.q,
       byteOf 0 second.q]

/-- The section a section code names (R167). -/
def sectionOfCode (code : Byte) : Option TapSection :=
  if code = 0 then some .near else if code = 1 then some .far else if code = 2 then some .eq else none

/-- The record a line pump reads in an upstream half, by its kind; UNOWNED, and any kind that is none of the four, is no
record of a station (R133, R168). -/
def readUpstream (b : Vector Byte 18) : Option UpstreamRecord :=
  let kind := (b[0].extractLsb' 4 4 : BitVec 4)
  if kind = 0 then some (.idle b[1])
  else if kind = 1 then
    some (.result b[1] { stamp := b[2] ++ b[3], soft := sampleFrom b[4] b[5] b[6] b[7],
                         decision := sampleFrom b[8] b[9] b[10] b[11], error := sampleFrom b[12] b[13] b[14] b[15] })
  else if kind = 2 then
    some (.status b[1] (b[2] ++ b[3]) ((b[4] ++ b[5] ++ b[6]).extractLsb' 0 19)
      (if b[7].getLsbD 0 then .present else .absent) (if b[7].getLsbD 1 then .settled else .unsettled)
      (b[8] ++ b[9] ++ b[10] ++ b[11]) (b[12] ++ b[13] ++ b[14] ++ b[15]))
  else if kind = 3 then
    (sectionOfCode b[4]).map fun part =>
      .segment b[1] (b[0].getLsbD 0) (b[2] ++ b[3]) part b[5] (tapFrom b[6] b[7] b[8] b[9] b[10] b[11])
        (tapFrom b[12] b[13] b[14] b[15] b[16] b[17])
  else none

/-- An upstream half that no station drives reads as all ones; its record kind reads 15, UNOWNED (R133). -/
def undrivenHalf : Vector Byte 18 := Vector.replicate 18 0xFF

/-- The status code of a record written now (R113). -/
def Call.codeByte (c : Call) : Byte := BitVec.ofNat 8 c.statusCode

/-- The STATUS record of a context, its fields taken at the write (R116). -/
def Call.statusRecord (c : Call) : UpstreamRecord :=
  .status c.codeByte c.stamp c.conditions c.signalState c.errorState (BitVec.ofNat 32 c.signalPower)
    (BitVec.ofNat 32 c.errorPower)

/-- The SEGMENT record of a context's next segment, its taps and stamp taken at the write (R123). -/
def Call.segmentRecord (c : Call) (e : ExportRecord) : UpstreamRecord :=
  .segment c.codeByte (e.next == e.last) c.stamp e.part (BitVec.ofNat 8 e.next) (c.tapAt e.part (2 * e.next))
    (c.tapAt e.part (2 * e.next + 1))

/-- The call after a segment is written: the next segment rises by 1; after the last the export record is removed and
EXPORT_DONE is latched (R123, R124). -/
def Call.afterSegment (c : Call) (e : ExportRecord) : Call :=
  if e.next = e.last then { c with exportRun := none }.latch .exportDone
  else { c with exportRun := some { e with next := e.next + 1 } }

/-- The record written for the owning context, and its call after the write: the head RESULT; otherwise a due STATUS;
otherwise the next export segment; otherwise IDLE (R136). -/
def Call.upstreamChoice (c : Call) : UpstreamRecord × Call :=
  match c.outputQueue with
  | r :: rest => (.result c.codeByte r, { c with outputQueue := rest })
  | [] =>
    if c.statusDue then (c.statusRecord, { c with statusDue := false })
    else
      match c.exportRun with
      | some e => (c.segmentRecord e, c.afterSegment e)
      | none => (.idle c.codeByte, c)

/-- UPSTREAM_WRITE (R136, R138): at the write event of the lane's upstream half the owning context's record is written;
without an owner, or off the highway, the half is not driven. -/
def execUpstreamWrite (lane : Lane) (s : State) : Host.Outcome State Fault Refusal :=
  if s.onHighway then
    match s.owner lane with
    | some (i, c) =>
      .next ((s.setContext i (.live c.upstreamChoice.2)).withHighway
        { s.highway with upstreamHalf := some { lane := lane, bytes := c.upstreamChoice.1.bytes } })
    | none => .next (s.withHighway { s.highway with upstreamHalf := none })
  else .next (s.withHighway { s.highway with upstreamHalf := none })

end Sys2Proof.Machine
end

