-- ==== Sys2Proof/Machine/Dispatch.lean ====
section
/-! DEFINITION. One arm per command: the command's meaning. -/

namespace Sys2Proof.Machine

def exec (i : Instr) (s : State) : Host.Outcome State Fault Refusal :=
  match i with
  | .resetPinAsserted => Sys2Proof.Machine.execResetPinAsserted s
  | .resetPinReleased stationBits parityPin => Sys2Proof.Machine.execResetPinReleased stationBits parityPin s
  | .signatureBlockRead bytes => Sys2Proof.Machine.execSignatureBlockRead bytes s
  | .headersRead bytes => Sys2Proof.Machine.execHeadersRead bytes s
  | .scheduleTableRead bytes => Sys2Proof.Machine.execScheduleTableRead bytes s
  | .profileTableRead bytes => Sys2Proof.Machine.execProfileTableRead bytes s
  | .frameMark clocks => Sys2Proof.Machine.execFrameMark clocks s
  | .missingFrameMark => Sys2Proof.Machine.execMissingFrameMark s
  | .headerComplete header => Sys2Proof.Machine.execHeaderComplete header s
  | .watchTimerExpiry => Sys2Proof.Machine.execWatchTimerExpiry s
  | .roundStart => Sys2Proof.Machine.execRoundStart s
  | .roundOutcome othersBid othersConfirm => Sys2Proof.Machine.execRoundOutcome othersBid othersConfirm s
  | .sampleArrival lane sequence bytes => Sys2Proof.Machine.execSampleArrival lane sequence bytes s
  | .controlArrival lane kind bytes => Sys2Proof.Machine.execControlArrival lane kind bytes s
  | .announce lane profile => Sys2Proof.Machine.execAnnounce lane profile s
  | .release lane => Sys2Proof.Machine.execRelease lane s
  | .idleArrival lane kind => Sys2Proof.Machine.execIdleArrival lane kind s
  | .sampleEntryCompletion => Sys2Proof.Machine.execSampleEntryCompletion s
  | .freeze => Sys2Proof.Machine.execFreeze s
  | .thaw => Sys2Proof.Machine.execThaw s
  | .retrain => Sys2Proof.Machine.execRetrain s
  | .farDelay => Sys2Proof.Machine.execFarDelay s
  | .farOff => Sys2Proof.Machine.execFarOff s
  | .clear => Sys2Proof.Machine.execClear s
  | .exportTaps => Sys2Proof.Machine.execExport s
  | .importTaps => Sys2Proof.Machine.execImport s
  | .unknownControl => Sys2Proof.Machine.execUnknownControl s
  | .upstreamWrite lane => Sys2Proof.Machine.execUpstreamWrite lane s

end Sys2Proof.Machine
end

