-- ==== Sys2Proof/Safety.lean ====
section
/-! DEFINITION. What holds of a station in a safe run: the laws that the spec states of every moment, one definition for
each. A safe run is one in which every state is `State.Sound`. -/

namespace Sys2Proof.Machine

/-- R58: every page is at all times either in the free page list or in exactly one context's page list, once. -/
def State.PagesAccounted (s : State) : Prop :=
  ∀ p : Page, s.history.freePages.count p + ∑ i : CtxNum, (s.contexts[i].pages).count p = 1

/-- R60: a context is in the wait list exactly when its far state is WAITING, and at most once; a RELEASING context is
never WAITING (R74). -/
def State.WaitListExact (s : State) : Prop :=
  (s.history.waitList.map Prod.fst).Nodup ∧
  (∀ i : CtxNum, i ∈ s.history.waitList.map Prod.fst ↔ ∃ c, s.contexts[i] = .live c ∧ c.far.isWaiting = true) ∧
  ∀ (i : CtxNum) (c : Call), s.contexts[i] = .releasing c → c.far.isWaiting = false

/-- R147: the load points of the contexts that are not FREE and the free load make up the station's capacity; and a bid
under way is covered by the free load and by a FREE context (R148). -/
def State.LoadAccounted (s : State) : Prop :=
  s.adoption.freeLoad + ∑ i : CtxNum, s.contexts[i].load = Config.stationLoad ∧
  ∀ b, s.adoption.bid = some b → s.lowestFree.isSome = true ∧
    ∃ p, s.loader.profiles[b.profile] = some p ∧ p.load ≤ s.adoption.freeLoad

/-- R4: no two LIVE contexts hold one lane; a lane with a pending announcement or a bid under way is not owned. -/
def State.LanesOwnedOnce (s : State) : Prop :=
  (∀ (i j : CtxNum) (c d : Call), s.contexts[i] = .live c → s.contexts[j] = .live d → c.lane = d.lane → i = j) ∧
  (∀ (k : Lane) (n : BitVec 4), s.adoption.announced[k] = some n → s.owner k = none) ∧
  ∀ b, s.adoption.bid = some b → s.owner b.lane = none

/-- R8, R21, R22: the current job never names a FREE context; a context is RELEASING only while the engine works on its
entry; and the engine is idle only when there is no candidate. -/
def State.EngineConsistent (s : State) : Prop :=
  (∀ j, s.engine.job = some j → s.contexts[j.context] ≠ .free) ∧
  (∀ (i : CtxNum) (c : Call), s.contexts[i] = .releasing c → s.engineOn i = true) ∧
  (s.engine.job = none → ∀ k : Lane, s.candidate k = none)

/-- R15 and R7: an input queue holds at most 3 entries and an output queue at most 4; those of a RELEASING context are
empty, and it has no STATUS due. -/
def State.QueuesBounded (s : State) : Prop :=
  (∀ (i : CtxNum) (c : Call), s.contexts[i] = .live c →
    c.inputQueue.length ≤ Config.inputCapacity ∧ c.outputQueue.length ≤ Config.outputCapacity) ∧
  ∀ (i : CtxNum) (c : Call), s.contexts[i] = .releasing c →
    c.inputQueue = [] ∧ c.outputQueue = [] ∧ c.statusDue = false

/-- R90: a context whose hold flag is set has DIVERGED pending. -/
def State.HoldMeansDiverged (s : State) : Prop :=
  ∀ (i : CtxNum) (c : Call), s.contexts[i].call? = some c → c.hold = true → c.isPending .diverged = true

/-- History memory is in its canonical form (R57). -/
def State.HistoryCanonical (s : State) : Prop := cellsWf s.history.cells

/-- The station states' rows of R142 and R155, with R143, R147, R156 and R163: what the highway interface, the adoption
unit, the loader, the fault pin and the contexts hold in each station state. -/
structure State.StationRow (s : State) : Prop where
  /-- The fault pin is low in LISTEN_ONLY and in no other state (R155). -/
  faultPin : s.loader.faultLow = true ↔ s.loader.station = .listenOnly
  /-- A load is in progress, and the SPI select low, in LOADING and in no other state (R159, R163). -/
  loading : s.loader.loadStep ≠ .idle ↔ s.loader.station = .loading
  spi : s.loader.spi.isSome = true ↔ s.loader.station = .loading
  /-- The frame number seen is absent in RESET, LOADING and LISTEN_ONLY (R142). -/
  noFrame : s.loader.station ≠ .unsynced → s.loader.station ≠ .active → s.highway.frameNumber = none
  /-- The watch runs in UNSYNCED and ACTIVE, and has not reached 65536 periods (R139). -/
  watch : (∃ t, s.highway.watch = some t ∧ t < Config.watchPeriods) ∨ s.highway.watch = none
  watchRuns : s.highway.watch.isSome = true ↔ (s.loader.station = .unsynced ∨ s.loader.station = .active)
  /-- The good-frame count: 64 in ACTIVE, 0..63 in UNSYNCED, 0 otherwise (R140, R142). -/
  goodActive : s.loader.station = .active → s.highway.goodFrames = 64
  goodUnsynced : s.loader.station = .unsynced → s.highway.goodFrames ≤ 63
  goodOther : s.loader.station ≠ .unsynced → s.loader.station ≠ .active → s.highway.goodFrames = 0
  /-- Outside ACTIVE nothing is driven, no bid is under way, and no announcement is pending (R138, R143). -/
  silent : s.loader.station ≠ .active → s.highway.upstreamHalf = none ∧ s.adoption.bid = none ∧
    s.adoption.confirm = none ∧ ∀ k : Lane, s.adoption.announced[k] = none
  /-- A context is LIVE only in ACTIVE (R155), and RELEASING only in UNSYNCED and ACTIVE (R11, R75). -/
  live : ∀ i : CtxNum, s.contexts[i].isLive = true → s.loader.station = .active
  free : s.loader.station ≠ .unsynced → s.loader.station ≠ .active → ∀ i : CtxNum, s.contexts[i] = .free
  /-- A station that follows the highway has a station number and at least one valid profile (R157, R163). -/
  served : (s.loader.station = .unsynced ∨ s.loader.station = .active) →
    s.adoption.stationNumber.isSome = true ∧ ∃ k : Fin 16, s.loader.profiles[k].isSome = true
  numbered : s.loader.station = .loading → s.adoption.stationNumber.isSome = true

/-- R93, R105, R162, R170: every profile of the table is within its ranges, with thresholds of 32 bits, and names a
schedule that the table holds with 1..8 phases, every context keeps the values of the profile it names, and a schedule
table read in a load holds such schedules alone. -/
structure State.ProfilesSound (s : State) : Prop where
  inRange : ∀ (k : Fin 16) (p : Profile), s.loader.profiles[k] = some p → p.inRange = true
  thresholds : ∀ (k : Fin 16) (p : Profile), s.loader.profiles[k] = some p →
    p.tOn < 2 ^ 32 ∧ p.tOff < 2 ^ 32 ∧ p.tConv < 2 ^ 32 ∧ p.tDiv < 2 ^ 32
  scheduled : ∀ (k : Fin 16) (p : Profile), s.loader.profiles[k] = some p →
    ∃ phases, s.loader.schedules[p.schedule] = some phases ∧ 1 ≤ phases.length ∧ phases.length ≤ 8
  settings : ∀ (i : CtxNum) (c : Call), s.contexts[i].call? = some c → s.loader.profiles[c.profile] = some c.settings
  loading : ∀ (table : Vector (Option (List Phase)) 8) (profiles : TableHeader) (k : Fin 8) (phases : List Phase),
    s.loader.loadStep = .profileTable table profiles → table[k] = some phases → 1 ≤ phases.length ∧ phases.length ≤ 8

/-- R95: the phase index of every context's cursor is less than its schedule's phase count. -/
def State.CursorsInRange (s : State) : Prop :=
  ∀ (i : CtxNum) (c : Call), s.contexts[i].call? = some c →
    ∃ phases, s.loader.schedules[c.settings.schedule] = some phases ∧ c.phase < phases.length

/-- R42, R43, R76, R77: the lines and the sections of taps have the lengths that the profile gives. -/
def Call.Shaped (c : Call) : Prop :=
  c.nearLine.length = c.settings.nn ∧ c.nearTaps.length = 2 * c.settings.nn ∧
  c.farTaps.length = 2 * c.settings.nf ∧ c.eqLine.length = c.settings.ne ∧ c.eqTaps.length = c.settings.ne

/-- Every context's lines and taps have their lengths. -/
def State.ContextsShaped (s : State) : Prop :=
  ∀ (i : CtxNum) (c : Call), s.contexts[i].call? = some c → c.Shaped

/-- R63, R64: the far fields that go with a far state. -/
def Call.FarSound (c : Call) : Prop :=
  match c.far with
  | .absent => c.settings.nf = 0
  | .unset => 1 ≤ c.settings.nf
  | .waiting d => 1 ≤ c.settings.nf ∧ d + c.settings.nf ≤ 4096
  | .filling r => 1 ≤ c.settings.nf ∧ r.pages.length ≤ 64 ∧ r.delay + c.settings.nf ≤ r.length ∧
      r.writeIndex < r.length ∧ r.fill < r.delay + c.settings.nf
  | .active r => 1 ≤ c.settings.nf ∧ r.pages.length ≤ 64 ∧ r.delay + c.settings.nf ≤ r.fill ∧
      r.writeIndex < r.length ∧ r.fill ≤ r.length

/-- R60 to R64: every context's far section is sound, and an entry of the wait list asks for what its context's delay
needs. -/
def State.FarSound (s : State) : Prop :=
  (∀ (i : CtxNum) (c : Call), s.contexts[i].call? = some c → c.FarSound) ∧
  ∀ (i : CtxNum) (need : Nat), (i, need) ∈ s.history.waitList →
    ∃ c d, s.contexts[i] = .live c ∧ c.far = .waiting d ∧ need = (d + c.settings.nf + 63) / 64

/-- R120: the next segment of an export record is at most its last, and the last lies within the section. -/
def State.ExportsInRange (s : State) : Prop :=
  ∀ (i : CtxNum) (c : Call) (e : ExportRecord), s.contexts[i].call? = some c → c.exportRun = some e →
    e.next ≤ e.last ∧ e.last < c.settings.segments e.part

/-- R107, R109, R110: the signal power stays at or below 2^31 + 2^Ks, and the error power within 32 bits. -/
def State.PowersBounded (s : State) : Prop :=
  ∀ (i : CtxNum) (c : Call), s.contexts[i].call? = some c →
    c.signalPower ≤ 2 ^ 31 + 2 ^ c.settings.ks ∧ c.errorPower < 2 ^ 32

/-! ### Terms that statements use -/

/-- What the contend line reads, bit by bit, through a field of `n` contend bits in which the stations with the given
fields all send: each bit reads 1 when a station still in sends 1, and a station that sends 0 and reads 1 drops out and
sends nothing more (R132). -/
def contendLine : Nat → List (List Bool) → List Bool
  | 0, _ => []
  | n + 1, fields =>
    let line := fields.any fun f => f.headD false
    line :: contendLine n ((fields.filter fun f => f.headD false == line).map List.tail)

/-- The command whose event completes an entry, by the kind of the entry (spec/95_what_each_step_holds.md; R166). -/
def Entry.completion : Entry → Instr
  | .sample _ => .sampleEntryCompletion
  | .control e =>
    match e.kind.toNat with
    | 1 => .freeze
    | 2 => .thaw
    | 3 => .retrain
    | 4 => .farDelay
    | 5 => .farOff
    | 6 => .clear
    | 7 => .exportTaps
    | 8 => .importTaps
    | _ => .unknownControl

/-- Ring writes of several symbols, the first in the list written first (R72). -/
def Ring.putAll (xs : List Sample) (r : Ring) (cells : List (Nat × Sample)) : Ring × List (Nat × Sample) :=
  xs.foldl (fun p x => (p.1.advance, p.1.put p.2 x)) (r, cells)

/-- The I part of the sum of the filtering products of the first `n` taps and symbols (R37, R44). -/
def filterSumI (taps : List Tap) (xs : List Sample) (n : Nat) : Int :=
  ∑ k ∈ Finset.range n,
    ((taps.getD k Cplx.zero).i.toInt * (xs.getD k Cplx.zero).i.toInt
      - (taps.getD k Cplx.zero).q.toInt * (xs.getD k Cplx.zero).q.toInt)

/-- The Q part of the same sum. -/
def filterSumQ (taps : List Tap) (xs : List Sample) (n : Nat) : Int :=
  ∑ k ∈ Finset.range n,
    ((taps.getD k Cplx.zero).i.toInt * (xs.getD k Cplx.zero).q.toInt
      + (taps.getD k Cplx.zero).q.toInt * (xs.getD k Cplx.zero).i.toInt)

/-- The I part of what an update makes of a tap part before its saturation: the part plus round_S of the I part
ac + bd of e·conj(x), where e is a + jb and x is c + jd (R37, R38, R48, R87). -/
def stepSumI (shift : Nat) (e x : Sample) (part : Int) : Int :=
  part + (e.i.toInt * x.i.toInt + e.q.toInt * x.q.toInt + 2 ^ (shift - 1)) / 2 ^ shift

/-- The Q part of the same: the part plus round_S of the Q part bc − ad of e·conj(x). -/
def stepSumQ (shift : Nat) (e x : Sample) (part : Int) : Int :=
  part + (e.q.toInt * x.i.toInt - e.i.toInt * x.q.toInt + 2 ^ (shift - 1)) / 2 ^ shift

/-- The tap at place `k` holds the two parts, each clamped into the range of 24 bits (R39). -/
def HoldsClamped (taps : List Tap) (k : Nat) (i q : Int) : Prop :=
  ∃ t, taps[k]? = some t ∧ t.i.toInt = max (-8388608) (min 8388607 i) ∧ t.q.toInt = max (-8388608) (min 8388607 q)

/-- At least one of the two parts lies outside the range of 24 bits, so that sat24 clamps (R39). -/
def OutsideTapRange (i q : Int) : Prop := i < -8388608 ∨ 8388607 < i ∨ q < -8388608 ∨ 8388607 < q

/-- What the leak of a phase makes of a tap part: v − round_L(v) for a leak L of 1 or more, and v for 0 (R87, R88). -/
def leakedPart (leak : Nat) (v : Int) : Int := if leak = 0 then v else v - (v + 2 ^ (leak - 1)) / 2 ^ leak

/-- Every law at once. -/
structure State.Sound (s : State) : Prop where
  pages : s.PagesAccounted
  waiting : s.WaitListExact
  load : s.LoadAccounted
  lanes : s.LanesOwnedOnce
  engine : s.EngineConsistent
  queues : s.QueuesBounded
  hold : s.HoldMeansDiverged
  history : s.HistoryCanonical
  row : s.StationRow
  profiles : s.ProfilesSound
  cursors : s.CursorsInRange
  shapes : s.ContextsShaped
  far : s.FarSound
  exports : s.ExportsInRange
  powers : s.PowersBounded

end Sys2Proof.Machine
end

