-- ==== Sys2Proof/Certificates/Slice0/Obligations.lean ====
section
/-! DEFINITION. The statements about the model, for the provers. -/

open Sys2Proof Sys2Proof.Machine

/-! ### Steps and encodings -/

/-- A step takes the command at the front of the queue and runs it with the queue's rest. -/
def Obligations.StepRunsFrontCommand : Prop :=
  ∀ (c : Instr) (rest : List Instr) (s : State), s.pending = c :: rest →
    Sys2Proof.Machine.step s = exec c { s with pending := rest }

/-- R139, with the model's choice of assumption log entry 1 that a step on an empty queue is one local-oscillator period:
a stopped watch idles, a running watch counts, and the period that makes 65536 is the expiry. In UNSYNCED the expiry
zeroes the good-frame count and restarts the watch. -/
def Obligations.WatchTimerCountsPeriods : Prop :=
  (∀ s : State, s.pending = [] → s.highway.watch = none → Sys2Proof.Machine.step s = .next s) ∧
  (∀ (s : State) (t : Nat), s.pending = [] → s.highway.watch = some t → t + 1 < 65536 →
    Sys2Proof.Machine.step s = .next { s with highway := { s.highway with watch := some (t + 1) } }) ∧
  (∀ (s : State) (t : Nat), s.pending = [] → s.highway.watch = some t → 65536 ≤ t + 1 →
    Sys2Proof.Machine.step s = exec .watchTimerExpiry s) ∧
  ∀ s : State, s.loader.station = .unsynced → exec .watchTimerExpiry s =
    .next { s with highway := { s.highway with goodFrames := 0, watch := some 0 } }

/-- R134, R166: the 18 bytes with which a line pump raises a well-formed downstream command are read back as that
command, with every operand. -/
def Obligations.DownstreamHalfReadsBack : Prop :=
  ∀ (c : Instr) (lane : Lane) (half : Vector Byte 18), c.wellFormed = true → halfOfCommand c = some (lane, half) →
    commandOfHalf lane half = c

/-- R168, R133: the 18 bytes of every upstream record read back as that record, and an undriven half reads as none. -/
def Obligations.UpstreamRecordReadsBack : Prop :=
  (∀ r : UpstreamRecord, readUpstream r.bytes = some r) ∧ readUpstream undrivenHalf = none

/-- R166, R167: bits 7..2 of byte 1 of a SAMPLE, and its bytes 14..17 when its reference-present flag is 0, have no
effect. -/
def Obligations.UnreadSampleBitsHaveNoEffect : Prop :=
  ∀ (lane : Lane) (q : BitVec 4) (a b : Vector Byte 17) (s : State),
    a[0].getLsbD 0 = b[0].getLsbD 0 → a[0].getLsbD 1 = b[0].getLsbD 1 →
    (∀ n : Fin 17, 1 ≤ n.val → n.val ≤ 12 → a[n] = b[n]) →
    (a[0].getLsbD 0 = true → ∀ n : Fin 17, 13 ≤ n.val → a[n] = b[n]) →
    exec (.sampleArrival lane q a) s = exec (.sampleArrival lane q b) s

/-! ### Reset and the image load -/

/-- R156, R11: while the reset pin is asserted everything the station holds has its reset value; the factory serial, the
page contents and the waiting commands are kept. How a bid, a confirm and a driven half are held in the state is the model's
choice (assumption log entries 7 and 8). -/
def Obligations.ResetPinGivesResetValues : Prop :=
  ∀ s : State, ∃ t : State, exec .resetPinAsserted s = .next t ∧
    t.loader.station = .reset ∧ (∀ i : CtxNum, t.contexts[i] = .free) ∧
    t.engine.job = none ∧ t.engine.lastServed = 63 ∧
    (∀ k : Lane, t.adoption.announced[k] = none) ∧ t.adoption.freeLoad = 4096 ∧ t.adoption.stationNumber = none ∧
    t.adoption.bid = none ∧ t.adoption.confirm = none ∧
    t.history.freePages = List.finRange 256 ∧ t.history.waitList = [] ∧
    (∀ k : Fin 16, t.loader.profiles[k] = none) ∧ (∀ k : Fin 8, t.loader.schedules[k] = none) ∧
    t.loader.loadStep = .idle ∧ t.loader.spi = none ∧ t.loader.faultLow = false ∧
    t.highway.frameNumber = none ∧ t.highway.watch = none ∧ t.highway.goodFrames = 0 ∧
    t.highway.upstreamHalf = none ∧
    t.adoption.serial = s.adoption.serial ∧ t.history.cells = s.history.cells ∧ t.pending = s.pending

/-- R157: with an odd number of strap pins at 1 the station number is taken and the signature block is read, eight bytes
from address 0; otherwise the station enters LISTEN_ONLY with the fault pin low. -/
def Obligations.StrapParityDecidesTheLoad : Prop :=
  ∀ (s : State) (b : BitVec 4) (p : Bool), s.loader.station = .reset →
    (((b.getLsbD 3).toNat + (b.getLsbD 2).toNat + (b.getLsbD 1).toNat + (b.getLsbD 0).toNat + p.toNat) % 2 = 1 →
      exec (.resetPinReleased b p) s = .next
        { s with
          loader := { s.loader with
            station := .loading, loadStep := .signature, spi := some { address := 0, count := 8 } }
          adoption := { s.adoption with stationNumber := some b } }) ∧
    (((b.getLsbD 3).toNat + (b.getLsbD 2).toNat + (b.getLsbD 1).toNat + (b.getLsbD 0).toNat + p.toNat) % 2 = 0 →
      exec (.resetPinReleased b p) s = .next
        { s with loader := { s.loader with station := .listenOnly, faultLow := true } })

/-- R160, R159, R163: a signature block that passes its three checks starts the read of 8·h bytes from address 8; one
that fails a check ends the load in LISTEN_ONLY with every table entry absent, the select released and the fault pin
low. -/
def Obligations.SignatureBlockIsChecked : Prop :=
  ∀ (s : State) (b : Vector Byte 8), s.loader.loadStep = .signature →
    ((b[0] = 0x4E ∧ b[1] = 0x58 ∧ b[2] = 0x32 ∧ b[3] = 0x34 ∧ b[4] = 1 ∧ 1 ≤ b[5].toNat ∧ b[5].toNat ≤ 4) →
      exec (.signatureBlockRead b) s = .next
        { s with loader := { s.loader with
            loadStep := .headers, spi := some { address := 8, count := 8 * b[5].toNat } } }) ∧
    (¬(b[0] = 0x4E ∧ b[1] = 0x58 ∧ b[2] = 0x32 ∧ b[3] = 0x34 ∧ b[4] = 1 ∧ 1 ≤ b[5].toNat ∧ b[5].toNat ≤ 4) →
      exec (.signatureBlockRead b) s = .next
        { s with loader :=
          { station := .listenOnly, profiles := Vector.replicate 16 none, schedules := Vector.replicate 8 none
            loadStep := .idle, spi := none, faultLow := true } })

/-- R160, R159, R170: the headers in use are the first of kind 1 and the first of kind 2. When both are there, each with
table revision 1 and an extent within the 24-bit address space, the schedule table is read from its pointer, 68 bytes for
each of min(8, length div 17) schedules; otherwise the load ends in a total fault. That a schedule table of fewer than 17
words is still read, with a read of 0 bytes, is the model's choice (assumption log entry 11). -/
def Obligations.HeadersAreChecked : Prop :=
  ∀ (s : State) (bytes : List Byte) (r : SpiRead), s.loader.loadStep = .headers → s.loader.spi = some r →
    bytes.length = r.count →
    (∀ n m : Nat,
      (n < bytes.length / 8 ∧ byteAt bytes (8 * n) = 1 ∧ ∀ k < n, byteAt bytes (8 * k) ≠ 1) →
      (m < bytes.length / 8 ∧ byteAt bytes (8 * m) = 2 ∧ ∀ k < m, byteAt bytes (8 * k) ≠ 2) →
      ((byteAt bytes (8 * n + 1) = 1 ∧ threeBytesAt bytes (8 * n + 4) + 4 * twoBytesAt bytes (8 * n + 2) ≤ 16777216 ∧
        byteAt bytes (8 * m + 1) = 1 ∧ threeBytesAt bytes (8 * m + 4) + 4 * twoBytesAt bytes (8 * m + 2) ≤ 16777216) →
        exec (.headersRead bytes) s = .next
          { s with loader := { s.loader with
              loadStep := .scheduleTable (headerAt bytes m).2 (headerAt bytes n).2
              spi := some { address := threeBytesAt bytes (8 * m + 4)
                            count := 68 * min 8 (twoBytesAt bytes (8 * m + 2) / 17) } } }) ∧
      (¬(byteAt bytes (8 * n + 1) = 1 ∧ threeBytesAt bytes (8 * n + 4) + 4 * twoBytesAt bytes (8 * n + 2) ≤ 16777216 ∧
        byteAt bytes (8 * m + 1) = 1 ∧ threeBytesAt bytes (8 * m + 4) + 4 * twoBytesAt bytes (8 * m + 2) ≤ 16777216) →
        exec (.headersRead bytes) s = .next s.totalFault)) ∧
    (((∀ n < bytes.length / 8, byteAt bytes (8 * n) ≠ 1) ∨ (∀ m < bytes.length / 8, byteAt bytes (8 * m) ≠ 2)) →
      exec (.headersRead bytes) s = .next s.totalFault)

/-- R161, R159: entry k of the schedule table is valid exactly when it was read, its phase count is 1..8 and each of those
phases has valid fields; a valid entry holds its phases as they stand in the image; and the profile table is read next,
32 bytes for each of min(16, length div 8) profiles (R159). That a profile table of fewer than 8 words is still read, with a
read of 0 bytes, is the model's choice (assumption log entry 11). -/
def Obligations.SchedulesAreChecked : Prop :=
  ∀ (s : State) (bytes : List Byte) (h p : TableHeader) (r : SpiRead), s.loader.loadStep = .scheduleTable h p →
    s.loader.spi = some r → bytes.length = r.count →
    ∃ table : Vector (Option (List Phase)) 8,
      exec (.scheduleTableRead bytes) s = .next
        { s with loader := { s.loader with
            loadStep := .profileTable table p
            spi := some { address := p.pointer, count := 32 * min 16 (p.length / 8) } } } ∧
      (∀ k : Fin 8, table[k].isSome = true ↔
        k.val < min 8 (h.length / 17) ∧ 1 ≤ byteAt bytes (68 * k.val) ∧ byteAt bytes (68 * k.val) ≤ 8 ∧
        ∀ i < byteAt bytes (68 * k.val),
          (byteAt bytes (68 * k.val + 4 + 8 * i + 2) = 0 ∨
            (8 ≤ byteAt bytes (68 * k.val + 4 + 8 * i + 2) ∧ byteAt bytes (68 * k.val + 4 + 8 * i + 2) ≤ 24)) ∧
          (byteAt bytes (68 * k.val + 4 + 8 * i + 3) = 0 ∨
            (6 ≤ byteAt bytes (68 * k.val + 4 + 8 * i + 3) ∧ byteAt bytes (68 * k.val + 4 + 8 * i + 3) ≤ 24)) ∧
          byteAt bytes (68 * k.val + 4 + 8 * i + 4) ≤ 2 ∧ byteAt bytes (68 * k.val + 4 + 8 * i + 5) ≤ 15) ∧
      ∀ (k : Fin 8) (phases : List Phase), table[k] = some phases → phases.length = byteAt bytes (68 * k.val) ∧
        ∀ (i : Nat) (ph : Phase), phases[i]? = some ph →
          ph.length = twoBytesAt bytes (68 * k.val + 4 + 8 * i) ∧
          ph.se = byteAt bytes (68 * k.val + 4 + 8 * i + 2) ∧ ph.sw = byteAt bytes (68 * k.val + 4 + 8 * i + 3) ∧
          (ph.mode = .off ↔ byteAt bytes (68 * k.val + 4 + 8 * i + 4) = 0) ∧
          (ph.mode = .reference ↔ byteAt bytes (68 * k.val + 4 + 8 * i + 4) = 1) ∧
          ph.leak = byteAt bytes (68 * k.val + 4 + 8 * i + 5) ∧
          ph.farAdapt = (byteAt bytes (68 * k.val + 4 + 8 * i + 6)).testBit 0

/-- R162, R146: a profile entry is valid exactly when every field passes its check, and a valid profile holds the fields
as they stand in the image, with its load points rounded up from (2·Nn + 2·Nf + Ne) × R / 1000. -/
def Obligations.ProfilesAreChecked : Prop :=
  ∀ (table : Vector (Option (List Phase)) 8) (b : List Byte) (o : Nat),
    ((profileAt table b o).isSome = true ↔ ∃ rate ∈ [1200, 1600, 2400, 2800, 3000, 3200][byteAt b o]?,
      byteAt b (o + 1) ≤ 3 ∧
      1 ≤ twoBytesAt b (o + 2) ∧ (2 ^ (byteAt b (o + 1) + 1) - 1) * twoBytesAt b (o + 2) ≤ 32767 ∧
      1 ≤ byteAt b (o + 4) ∧ byteAt b (o + 4) ≤ 64 ∧ byteAt b (o + 5) ≤ 64 ∧
      byteAt b (o + 6) % 2 = 0 ∧ 2 ≤ byteAt b (o + 6) ∧ byteAt b (o + 6) ≤ 64 ∧
      (∃ k : Fin 8, k.val = byteAt b (o + 7) ∧ table[k].isSome = true) ∧
      1 ≤ byteAt b (o + 8) ∧ byteAt b (o + 8) ≤ 12 ∧ 1 ≤ byteAt b (o + 9) ∧ byteAt b (o + 9) ≤ 12 ∧
      byteAt b (o + 10) ≤ 4 ∧ byteAt b (o + 11) ≤ 2 ∧
      fourBytesAt b (o + 20) ≤ fourBytesAt b (o + 16) ∧ fourBytesAt b (o + 24) < fourBytesAt b (o + 28) ∧
      (2 * byteAt b (o + 4) + 2 * byteAt b (o + 5) + byteAt b (o + 6)) * rate ≤ 4096000) ∧
    ∀ p : Profile, profileAt table b o = some p →
      p.rateCode = byteAt b o ∧ p.levelsCode = byteAt b (o + 1) ∧ p.grid = twoBytesAt b (o + 2) ∧
      p.nn = byteAt b (o + 4) ∧ p.nf = byteAt b (o + 5) ∧ p.ne = byteAt b (o + 6) ∧
      p.schedule.val = byteAt b (o + 7) ∧ p.ks = byteAt b (o + 8) ∧ p.kq = byteAt b (o + 9) ∧
      [Gate.internal, .pump, .pumpInverted, .both, .hold][byteAt b (o + 10)]? = some p.gate ∧
      [ReportMode.every, .first, .none][byteAt b (o + 11)]? = some p.reportMode ∧
      p.signalRise = (byteAt b (o + 12)).testBit 0 ∧ p.signalFall = (byteAt b (o + 12)).testBit 1 ∧
      p.errorRise = (byteAt b (o + 12)).testBit 2 ∧ p.errorFall = (byteAt b (o + 12)).testBit 3 ∧
      p.clipEnable = (byteAt b (o + 12)).testBit 4 ∧
      p.tOn = fourBytesAt b (o + 16) ∧ p.tOff = fourBytesAt b (o + 20) ∧
      p.tConv = fourBytesAt b (o + 24) ∧ p.tDiv = fourBytesAt b (o + 28) ∧
      ∃ rate ∈ [1200, 1600, 2400, 2800, 3000, 3200][byteAt b o]?,
        (2 * p.nn + 2 * p.nf + p.ne) * rate ≤ 1000 * p.load ∧
        1000 * p.load < (2 * p.nn + 2 * p.nf + p.ne) * rate + 1000

/-- R163, R159, R140: at the end of the load the checked tables are installed; the station enters UNSYNCED with the fault
pin released, the good-frame count 0 and the watch started when a profile is valid, and LISTEN_ONLY with the fault pin
low when none is. That the flag of a missing mark is cleared at the entry to UNSYNCED, and that a read of 0 bytes ends the
load of an empty profile table, rest on assumption log entries 9 and 11. -/
def Obligations.LoadEndInstallsTheTables : Prop :=
  ∀ (s : State) (bytes : List Byte) (table : Vector (Option (List Phase)) 8) (h : TableHeader) (r : SpiRead),
    s.loader.loadStep = .profileTable table h → s.loader.spi = some r → bytes.length = r.count →
    ∃ t : State, exec (.profileTableRead bytes) s = .next t ∧
      (∀ k : Fin 16, t.loader.profiles[k] =
        if k.val < min 16 (h.length / 8) then profileAt table bytes (32 * k.val) else none) ∧
      t.loader.schedules = table ∧ t.loader.loadStep = .idle ∧ t.loader.spi = none ∧
      ((∃ k : Fin 16, t.loader.profiles[k].isSome = true) →
        t.loader.station = .unsynced ∧ t.loader.faultLow = false ∧
        t.highway = { s.highway with goodFrames := 0, watch := some 0, lapsed := false }) ∧
      ((∀ k : Fin 16, t.loader.profiles[k] = none) →
        t.loader.station = .listenOnly ∧ t.loader.faultLow = true ∧ t.highway = s.highway) ∧
      t.adoption = s.adoption ∧ t.contexts = s.contexts ∧ t.engine = s.engine ∧ t.history = s.history ∧
      t.pending = s.pending

/-! ### The highway -/

/-- R140, R141, R139: a mark begins a new frame and restarts the watch, and ends the bid, the confirm and the upstream half
of the old one; in UNSYNCED it counts, and the count of 64 enters ACTIVE. A missing mark ends the frame's parts, stops the
station from reading until the next mark, and in UNSYNCED zeroes the count. A completed header sets the frame number seen
to bits 5..0 of its byte 0 (R131, R165). Nothing else changes. How the bid, the confirm, the upstream half and the missing
mark are held in the state, and that a mark comes with its clock count, are the model's choices (assumption log entries 7,
8, 9 and 10). -/
def Obligations.FrameMarksAndHeadersAreFollowed : Prop :=
  (∀ (s : State) (n : Nat), s.loader.station = .unsynced →
    exec (.frameMark n) s = .next
      { s with
        loader := { s.loader with
          station := if n = 6144 ∧ 1 ≤ s.highway.goodFrames ∧ s.highway.goodFrames = 63 then .active else .unsynced }
        adoption := { s.adoption with bid := none, confirm := none }
        highway := { s.highway with
          goodFrames := if n = 6144 ∧ 1 ≤ s.highway.goodFrames then s.highway.goodFrames + 1 else 1
          watch := some 0, lapsed := false, upstreamHalf := none } }) ∧
  (∀ (s : State) (n : Nat), s.loader.station = .active →
    exec (.frameMark n) s = .next
      { s with
        adoption := { s.adoption with bid := none, confirm := none }
        highway := { s.highway with watch := some 0, lapsed := false, upstreamHalf := none } }) ∧
  (∀ s : State, s.loader.station = .unsynced →
    exec .missingFrameMark s = .next
      { s with
        adoption := { s.adoption with bid := none, confirm := none }
        highway := { s.highway with goodFrames := 0, lapsed := true, upstreamHalf := none } }) ∧
  (∀ s : State, s.loader.station = .active →
    exec .missingFrameMark s = .next
      { s with
        adoption := { s.adoption with bid := none, confirm := none }
        highway := { s.highway with lapsed := true, upstreamHalf := none } }) ∧
  ∀ (s : State) (h : Vector Byte 32), (s.loader.station = .unsynced ∨ s.loader.station = .active) →
    s.highway.lapsed = false →
    exec (.headerComplete h) s =
      .next { s with highway := { s.highway with frameNumber := some (Fin.ofNat 64 h[0].toNat) } }

/-- R10, R74, R139: at highway loss every LIVE context leaves LIVE; a context the engine is working on stays RELEASING with
its pages and load, and every other becomes FREE with its load returned, its pages returned to the tail in ascending
context order, and the wait list emptied. How the bid, the confirm and the driven half are held in the state is the model's
choice (assumption log entries 7 and 8). -/
def Obligations.HighwayLossReleasesEveryCall : Prop :=
  ∀ s : State, s.loader.station = .active → ∃ t : State, exec .watchTimerExpiry s = .next t ∧
    t.loader = { s.loader with station := .unsynced } ∧
    t.highway = { s.highway with watch := some 0, goodFrames := 0, upstreamHalf := none } ∧
    (∀ k : Lane, t.adoption.announced[k] = none) ∧ t.adoption.bid = none ∧ t.adoption.confirm = none ∧
    t.adoption.stationNumber = s.adoption.stationNumber ∧ t.adoption.serial = s.adoption.serial ∧
    t.engine = s.engine ∧ t.history.cells = s.history.cells ∧ t.pending = s.pending ∧
    (∀ i : CtxNum, (∀ j, s.engine.job = some j → j.context ≠ i) → t.contexts[i] = .free) ∧
    (∀ (i : CtxNum) (j : Job) (c : Call), s.engine.job = some j → j.context = i → s.contexts[i] = .live c →
      t.contexts[i] = .releasing
        { c with inputQueue := [], outputQueue := [], statusDue := false
                 far := if c.far.isWaiting then .unset else c.far }) ∧
    (∀ (i : CtxNum) (j : Job) (c : Call), s.engine.job = some j → j.context = i → s.contexts[i] = .releasing c →
      t.contexts[i] = .releasing c) ∧
    t.adoption.freeLoad + ∑ i : CtxNum, t.contexts[i].load = s.adoption.freeLoad + ∑ i : CtxNum, s.contexts[i].load ∧
    (s.WaitListExact → t.history.waitList = [] ∧
      t.history.freePages = s.history.freePages ++
        (List.finRange 24).flatMap fun i => if s.engineOn i then [] else s.contexts[i].pages)

/-- R134, R138, R141, R142: a station that is not ACTIVE takes no part in the rounds and the lanes and drives no upstream
half; an ACTIVE one takes and drives nothing either after clock 6143 has passed without a mark (the flag lapsed, assumption
log entry 9), and in that time no station reads a header; and in RESET, LOADING and LISTEN_ONLY it reads no marks and
headers. That an UPSTREAM_WRITE there clears the half held, and that WATCH_TIMER_EXPIRY has no effect while the watch is
stopped, are the model's choices (assumption log entries 8 and 4). -/
def Obligations.OffTheHighwayNothingIsTaken : Prop :=
  (∀ (s : State) (lane : Lane) (k : BitVec 4) (b : Vector Byte 17) (x : BitVec 37) (y : BitVec 5),
    (s.loader.station ≠ .active ∨ s.loader.station = .active ∧ s.highway.lapsed = true) →
    exec .roundStart s = .next s ∧ exec (.roundOutcome x y) s = .next s ∧
    exec (.sampleArrival lane k b) s = .next s ∧ exec (.controlArrival lane k b) s = .next s ∧
    exec (.announce lane k) s = .next s ∧ exec (.release lane) s = .next s ∧
    exec (.upstreamWrite lane) s = .next { s with highway := { s.highway with upstreamHalf := none } }) ∧
  (∀ (s : State) (h : Vector Byte 32), s.highway.lapsed = true → exec (.headerComplete h) s = .next s) ∧
  ∀ (s : State) (n : Nat) (h : Vector Byte 32),
    (s.loader.station = .reset ∨ s.loader.station = .loading ∨ s.loader.station = .listenOnly) →
    exec (.frameMark n) s = .next s ∧ exec .missingFrameMark s = .next s ∧ exec (.headerComplete h) s = .next s ∧
    exec .watchTimerExpiry s = .next s

/-! ### Rounds and adoption -/

/-- R148, R149: an ACTIVE station bids for the lane of the frame number seen exactly when the lane's entry is present, its
profile is valid, a context is FREE and the free load covers the profile's load points; its value is the spare load in
13 bits and then its serial in 24. The bid is held in the state as assumption log entry 7 says. -/
def Obligations.RoundStartBidsExactlyWhenEligible : Prop :=
  ∀ (s : State) (k : Lane), s.loader.station = .active → s.highway.lapsed = false → s.highway.frameNumber = some k →
    s.adoption.freeLoad ≤ 4096 → ∃ bid : Option Bid,
      exec .roundStart s = .next { s with adoption := { s.adoption with bid := bid } } ∧
      (bid.isSome = true ↔ ∃ n p, s.adoption.announced[k] = some n ∧ s.loader.profiles[n.toFin] = some p ∧
        (∃ i : CtxNum, s.contexts[i] = .free) ∧ p.load ≤ s.adoption.freeLoad) ∧
      ∀ b, bid = some b → b.lane = k ∧ ∃ n p, s.adoption.announced[k] = some n ∧ b.profile = n.toFin ∧
        s.loader.profiles[b.profile] = some p ∧
        b.value.toNat = (s.adoption.freeLoad - p.load) * 2 ^ 24 + s.adoption.serial.toNat

/-- R132, R149: however many stations send bids on the contend line, a station stays in through every bit exactly when its
value is the highest sent. -/
def Obligations.HighestBidSurvives : Prop :=
  ∀ (bids : List (BitVec 37)) (b : BitVec 37), b ∈ bids →
    (staysIn (contendBits b) (contendLine 37 (bids.map contendBits)) = true ↔ ∀ a ∈ bids, a.toNat ≤ b.toNat)

/-- R150, R5, R6: the survivor makes its lowest-numbered FREE context LIVE with every field at its adoption value, lowers
its free load by the load points, clears the entry and drives its confirm; nothing else changes. The bid and the confirm are
held in the state as assumption log entries 7 and 8 say, and a station number that is absent, which no run meets, is sent as
0 (entry 17). -/
def Obligations.RoundWonAdoptsTheCall : Prop :=
  ∀ (s : State) (b : Bid) (p : Profile) (i : CtxNum) (x : BitVec 37) (y : BitVec 5),
    s.loader.station = .active → s.highway.lapsed = false → s.adoption.bid = some b →
    staysIn (contendBits b.value) (contendBits x) = true → s.loader.profiles[b.profile] = some p →
    s.contexts[i] = .free → (∀ j : CtxNum, j < i → s.contexts[j] ≠ .free) →
    exec (.roundOutcome x y) s = .next
      { s with
        contexts := s.contexts.set i (.live
          { lane := b.lane, profile := b.profile, settings := p
            inputQueue := [], outputQueue := [], lastSequence := none, stamp := 0
            nearLine := List.replicate p.nn ⟨0, 0⟩, nearTaps := List.replicate (2 * p.nn) ⟨0, 0⟩
            far := if p.nf = 0 then .absent else .unset, farTaps := List.replicate (2 * p.nf) ⟨0, 0⟩
            eqLine := List.replicate p.ne ⟨0, 0⟩, eqTaps := List.replicate p.ne ⟨0, 0⟩
            hold := false, phase := 0, count := 0, frozen := false, exportRun := none
            signalPower := 0, signalState := .absent
            errorPower := if p.errorRise || p.errorFall then p.tDiv else 0, errorState := .unsettled
            conditions := 0, statusDue := false, firstReported := false })
        adoption := { s.adoption with
          announced := s.adoption.announced.set b.lane none, freeLoad := s.adoption.freeLoad - p.load, bid := none
          confirm := some (1#1 ++ s.adoption.stationNumber.getD 0) } }

/-- R150: a station that does not survive, or did not bid, clears its entry for the lane when the confirm it reads is
valid, and keeps it when it is not; it changes nothing else but that its bid is over (assumption log entry 7). -/
def Obligations.RoundLostFollowsTheConfirm : Prop :=
  (∀ (s : State) (b : Bid) (x : BitVec 37) (y : BitVec 5), s.loader.station = .active → s.highway.lapsed = false →
    s.adoption.bid = some b → staysIn (contendBits b.value) (contendBits x) = false →
    exec (.roundOutcome x y) s = .next
      { s with adoption := { s.adoption with
          bid := none
          announced := if y.getMsbD 0 then s.adoption.announced.set b.lane none else s.adoption.announced } }) ∧
  ∀ (s : State) (k : Lane) (x : BitVec 37) (y : BitVec 5), s.loader.station = .active → s.highway.lapsed = false →
    s.adoption.bid = none → s.highway.frameNumber = some k →
    exec (.roundOutcome x y) s = .next
      { s with adoption := { s.adoption with
          announced := if y.getMsbD 0 then s.adoption.announced.set k none else s.adoption.announced } }

/-! ### Arrivals -/

/-- R13, R14, R166: the entry of a SAMPLE: its symbol and received samples as they stand in the record, and its four tags:
the gap count against the last queued sequence, REF with the reference by the reference-present flag, QUIET, and CLIPPED
when the clip enable is on and a received part stands at an end of its range. -/
def Obligations.SampleTagsAtArrival : Prop :=
  ∀ (c : Call) (q : BitVec 4) (b : Vector Byte 17),
    (c.lastSequence = none → (c.sampleEntry q b).gap.toNat = 0) ∧
    (∀ l, c.lastSequence = some l → (c.sampleEntry q b).gap.toNat = (q.toNat + 15 - l.toNat) % 16) ∧
    (c.sampleEntry q b).symbol = ⟨b[1] ++ b[2], b[3] ++ b[4]⟩ ∧
    (c.sampleEntry q b).r0 = ⟨b[5] ++ b[6], b[7] ++ b[8]⟩ ∧ (c.sampleEntry q b).r1 = ⟨b[9] ++ b[10], b[11] ++ b[12]⟩ ∧
    (c.sampleEntry q b).reference = (if b[0].getLsbD 0 then some ⟨b[13] ++ b[14], b[15] ++ b[16]⟩ else none) ∧
    (c.sampleEntry q b).quiet = b[0].getLsbD 1 ∧
    ((c.sampleEntry q b).clipped = true ↔ c.settings.clipEnable = true ∧
      ∃ v ∈ [(c.sampleEntry q b).r0.i, (c.sampleEntry q b).r0.q, (c.sampleEntry q b).r1.i, (c.sampleEntry q b).r1.q],
        v.toInt = -32768 ∨ v.toInt = 32767)

/-- R12, R15, R34: while the engine has a job, an arrival for the LIVE context that owns the lane is appended when the queue
holds fewer than three entries, and discarded with OVERRUN when it holds three; only a queued SAMPLE moves the last queued
sequence. -/
def Obligations.ArrivalIsQueuedOrOverruns : Prop :=
  ∀ (s : State) (lane : Lane) (k : BitVec 4) (b : Vector Byte 17) (i : CtxNum) (c : Call) (j : Job),
    s.loader.station = .active → s.highway.lapsed = false → s.contexts[i] = .live c → c.lane = lane →
    (∀ (n : CtxNum) (d : Call), s.contexts[n] = .live d → d.lane = lane → n = i) → s.engine.job = some j →
    (c.inputQueue.length < 3 →
      exec (.sampleArrival lane k b) s = .next
        { s with contexts := s.contexts.set i (.live { c with
            inputQueue := c.inputQueue ++ [.sample (c.sampleEntry k b)], lastSequence := some k }) } ∧
      exec (.controlArrival lane k b) s = .next
        { s with contexts := s.contexts.set i (.live { c with
            inputQueue := c.inputQueue ++ [.control { kind := k, bytes := b }] }) }) ∧
    (3 ≤ c.inputQueue.length →
      exec (.sampleArrival lane k b) s = .next { s with contexts := s.contexts.set i (.live (c.latch .overrun)) } ∧
      exec (.controlArrival lane k b) s = .next { s with contexts := s.contexts.set i (.live (c.latch .overrun)) })

/-- R22, R16: an arrival that finds the engine idle is taken in the same event: the entry becomes the current job, the
context's queue is empty again, and its lane is the last served. -/
def Obligations.IdleEngineTakesTheArrival : Prop :=
  ∀ (s : State) (lane : Lane) (k : BitVec 4) (b : Vector Byte 17) (i : CtxNum) (c : Call),
    s.loader.station = .active → s.highway.lapsed = false → s.contexts[i] = .live c → c.lane = lane →
    (∀ (n : CtxNum) (d : Call), s.contexts[n] = .live d → d.lane = lane → n = i) → s.engine.job = none →
    (∀ (n : CtxNum) (d : Call), s.contexts[n] = .live d → d.inputQueue = []) →
    exec (.sampleArrival lane k b) s = .next
      { s with
        contexts := s.contexts.set i (.live { c with lastSequence := some k })
        engine := { job := some { context := i, entry := .sample (c.sampleEntry k b) }, lastServed := lane } } ∧
    exec (.controlArrival lane k b) s = .next
      { s with
        contexts := s.contexts
        engine := { job := some { context := i, entry := .control { kind := k, bytes := b } }, lastServed := lane } }

/-- R134, R144, R145: in a lane that no LIVE context of the station owns, SAMPLE and CONTROL are ignored, ANNOUNCE sets the
lane's entry and RELEASE clears it; an IDLE half is ignored in every lane. -/
def Obligations.HalvesInAnUnownedLane : Prop :=
  ∀ (s : State) (lane : Lane) (k : BitVec 4) (b : Vector Byte 17),
    s.loader.station = .active → s.highway.lapsed = false →
    (∀ (i : CtxNum) (c : Call), s.contexts[i] = .live c → c.lane ≠ lane) →
    exec (.sampleArrival lane k b) s = .next s ∧ exec (.controlArrival lane k b) s = .next s ∧
    exec (.announce lane k) s =
      .next { s with adoption := { s.adoption with announced := s.adoption.announced.set lane (some k) } } ∧
    exec (.release lane) s =
      .next { s with adoption := { s.adoption with announced := s.adoption.announced.set lane none } } ∧
    ∀ t : State, exec (.idleArrival lane k) t = .next t

/-! ### Release, the allocator, the engine -/

/-- R7, R8, R144, R145: a RELEASE or an ANNOUNCE in an owned lane takes the context out of LIVE. While the engine works on
its entry it is RELEASING, withdrawn and with its pages and load kept; otherwise, in every far state, it becomes FREE, its
load and pages return, it is in the wait list no more, and the grant rule runs. The lane's entry is cleared by a RELEASE and set by an ANNOUNCE. A context that waits for pages leaves the wait
list; and the grant rule runs after every return of pages and every leaving of the wait list. -/
def Obligations.ReleaseOfAnOwnedLane : Prop :=
  ∀ (s : State) (lane : Lane) (i : CtxNum) (c : Call) (cmd : Instr) (e : Option (BitVec 4)),
    s.loader.station = .active → s.highway.lapsed = false → s.contexts[i] = .live c → c.lane = lane →
    (∀ (n : CtxNum) (d : Call), s.contexts[n] = .live d → d.lane = lane → n = i) →
    (cmd = .release lane ∧ e = none ∨ ∃ k, cmd = .announce lane k ∧ e = some k) →
    (∀ j, s.engine.job = some j → j.context = i → c.far.isWaiting = false →
      exec cmd s = .next
        { s with
          contexts := s.contexts.set i
            (.releasing { c with inputQueue := [], outputQueue := [], statusDue := false })
          history := { s.history with waitList := s.history.waitList.filter fun x => x.1 != i }
          adoption := { s.adoption with announced := s.adoption.announced.set lane e } }) ∧
    ((∀ j, s.engine.job = some j → j.context ≠ i) →
      exec cmd s = .next (State.runGrantRule
        { s with
          contexts := s.contexts.set i .free
          history := { s.history with
            freePages := s.history.freePages ++ c.far.pages, waitList := s.history.waitList.filter fun x => x.1 != i }
          adoption := { s.adoption with
            announced := s.adoption.announced.set lane e, freeLoad := s.adoption.freeLoad + c.settings.load } })) ∧
    (∀ j, s.engine.job = some j → j.context = i → c.far.isWaiting = true →
      exec cmd s = .next (State.runGrantRule
        { s with
          contexts := s.contexts.set i
            (.releasing { c with inputQueue := [], outputQueue := [], statusDue := false, far := .unset })
          history := { s.history with waitList := s.history.waitList.filter fun x => x.1 != i }
          adoption := { s.adoption with announced := s.adoption.announced.set lane e } })) ∧
    ((∀ j, s.engine.job = some j → j.context ≠ i) → ∃ t, exec cmd s = .next t ∧ t.contexts[i] = .free ∧
      t.adoption.freeLoad = s.adoption.freeLoad + c.settings.load ∧ t.adoption.announced[lane] = e ∧
      (s.WaitListExact → i ∉ t.history.waitList.map Prod.fst) ∧
      ∀ k : Lane, k ≠ lane → t.adoption.announced[k] = s.adoption.announced[k])

/-- R61, R60: one run of the grant rule serves the head of the wait list again and again while the free count covers its
need: the contexts granted are the longest such first part of the list; each gets the next pages from the head of the free
page list, in order, and becomes FILLING with write index 0 and fill count 0; nothing else changes. -/
def Obligations.GrantRuleServesTheHead : Prop :=
  ∀ s : State, s.WaitListExact → ∃ granted rest : List (CtxNum × Nat),
    s.history.waitList = granted ++ rest ∧
    s.runGrantRule.history.waitList = rest ∧
    (granted.map Prod.snd).sum ≤ s.history.freePages.length ∧
    s.runGrantRule.history.freePages = s.history.freePages.drop (granted.map Prod.snd).sum ∧
    (∀ i need, rest.head? = some (i, need) → s.history.freePages.length - (granted.map Prod.snd).sum < need) ∧
    (∀ before i need after, granted = before ++ (i, need) :: after → ∃ c d,
      s.contexts[i] = .live c ∧ c.far = .waiting d ∧
      s.runGrantRule.contexts[i] = .live { c with
        far := .filling {
          delay := d, pages := (s.history.freePages.drop (before.map Prod.snd).sum).take need, writeIndex := 0, fill := 0 } }) ∧
    (∀ i : CtxNum, i ∉ granted.map Prod.fst → s.runGrantRule.contexts[i] = s.contexts[i]) ∧
    s.runGrantRule.loader = s.loader ∧ s.runGrantRule.highway = s.highway ∧ s.runGrantRule.adoption = s.adoption ∧
    s.runGrantRule.engine = s.engine ∧ s.runGrantRule.history.cells = s.history.cells ∧
    s.runGrantRule.pending = s.pending

/-- R23, R22, R16: with no job the engine takes the head entry of the candidate whose lane comes first after the last served
lane, around the 64 lanes, and that lane becomes the last served; with a job, or with no candidate, nothing changes. -/
def Obligations.EngineTakesLanesInTurn : Prop :=
  (∀ (s : State) (i : CtxNum) (c : Call) (e : Entry) (rest : List Entry), s.LanesOwnedOnce → s.engine.job = none →
    s.contexts[i] = .live c → c.inputQueue = e :: rest →
    (∀ (j : CtxNum) (d : Call), s.contexts[j] = .live d → d.inputQueue ≠ [] →
      (c.lane - (s.engine.lastServed + 1)).val ≤ (d.lane - (s.engine.lastServed + 1)).val) →
    s.takeNext =
      { s with
        contexts := s.contexts.set i (.live { c with inputQueue := rest })
        engine := { job := some { context := i, entry := e }, lastServed := c.lane } }) ∧
  (∀ (s : State) (j : Job), s.engine.job = some j → s.takeNext = s) ∧
  ∀ s : State, (∀ (i : CtxNum) (c : Call), s.contexts[i] = .live c → c.inputQueue = []) → s.takeNext = s

/-- R9, R8, R35: when the engine completes an entry of a RELEASING context, whatever the entry, nothing of its outcome takes
effect: the context becomes FREE, its load and pages return, the grant rule runs, and the engine chooses again. -/
def Obligations.ReleasingCompletionIsDiscarded : Prop :=
  ∀ (s : State) (j : Job) (c : Call), s.engine.job = some j → s.contexts[j.context] = .releasing c →
    exec j.entry.completion s = .next (State.takeNext (State.runGrantRule
      { s with
        contexts := s.contexts.set j.context .free
        engine := { s.engine with job := none }
        history := { s.history with freePages := s.history.freePages ++ c.far.pages }
        adoption := { s.adoption with freeLoad := s.adoption.freeLoad + c.settings.load } }))

/-! ### SAMPLE entries -/

/-- R26, R25, R30: a SAMPLE entry that completes for a LIVE context changes that context and its own ring positions alone,
then the engine chooses again; of the context it keeps the identity, the input queue, the last queued sequence, the frozen
flag, the export record and every pending condition, and what its stages latched becomes pending. The stages take their
order (R28, R29, R31): stages 3 to 7 read what stages 1 and 2 leave; the monitors follow; stages 9 and 10 read the signal
state and the hold that stage 8 leaves, so that a gate closed by this very entry keeps the echo taps (R53) and a hold set by
it keeps the equalizer taps (R90); and the RESULT at the tail of the output queue carries the soft symbol, decision and
error of stages 5 to 7 and the stamp of stage 2, the head of a full queue being lost. -/
def Obligations.SampleCompletionFrame : Prop :=
  ∀ (s : State) (i : CtxNum) (e : SampleEntry) (c : Call) (phases : List Phase) (ph : Phase),
    s.engine.job = some { context := i, entry := .sample e } → s.contexts[i] = .live c →
    s.loader.schedules[c.settings.schedule] = some phases → phases[c.phase]? = some ph →
    ∃ (d : Call) (cells : List (Nat × Sample)),
      exec .sampleEntryCompletion s = .next (State.takeNext
        { s with
          contexts := s.contexts.set i (.live d)
          engine := { s.engine with job := none }
          history := { s.history with cells := cells } }) ∧
      d = (sampleStages ph phases.length e c s.history.cells).complete ∧
      d.lane = c.lane ∧ d.profile = c.profile ∧ d.settings = c.settings ∧ d.inputQueue = c.inputQueue ∧
      d.lastSequence = c.lastSequence ∧ d.frozen = c.frozen ∧ d.exportRun = c.exportRun ∧
      d.far.pages = c.far.pages ∧ (∀ x : Condition, c.isPending x = true → d.isPending x = true) ∧
      (∀ x : Condition, d.isPending x = true ↔ c.isPending x = true ∨
        x ∈ (sampleStages ph phases.length e c s.history.cells).latched) ∧
      (let h := historyStages e c s.history.cells
       let v := h.values e
       let m := ((h.filter v).signalMonitor v).errorMonitor v
       d.stamp = c.stamp + e.gap.setWidth 16 + 1 ∧
       d.outputQueue = (if c.outputQueue.length < 4 then c.outputQueue else c.outputQueue.tail) ++
         [{ soft := v.soft, decision := v.decision, error := v.error, stamp := c.stamp + e.gap.setWidth 16 + 1 }] ∧
       d.nearLine = h.call.nearLine ∧ d.far = h.call.far ∧ cells = h.cells ∧ d.eqLine = (h.filter v).call.eqLine ∧
       d.signalPower = m.call.signalPower ∧ d.signalState = m.call.signalState ∧
       d.errorPower = m.call.errorPower ∧ d.errorState = m.call.errorState ∧ d.hold = m.call.hold ∧
       d.nearTaps = (m.echoAdaptation ph e v).call.nearTaps ∧ d.farTaps = (m.echoAdaptation ph e v).call.farTaps ∧
       d.eqTaps = (m.eqAdaptation ph e v).call.eqTaps ∧
       d.phase = (h.schedule ph phases.length).call.phase ∧ d.count = (h.schedule ph phases.length).call.count) ∧
      ((c.settings.gate = .internal ∨ c.settings.gate = .both) → d.signalState = .present →
        d.nearTaps = c.nearTaps ∧ d.farTaps = c.farTaps) ∧
      (d.hold = true → d.eqTaps = c.eqTaps) ∧
      ∀ a : Nat, (∀ p ∈ c.far.pages, a / 64 ≠ p.val) → cellsRead cells a = cellsRead s.history.cells a

/-- R19, R27, R28, R42, R72, R76: after an entry with gap count g the stamp is g + 1 further on modulo 65536; the near line holds
x(n), then g symbols (0, 0), then what it held; the equalizer line holds e1, e0, then 2g samples (0, 0), then what it held;
and GAP is latched exactly when g is not 0. A FILLING or ACTIVE far section has had g symbols (0, 0) and then x(n) written
into its ring, which advances the write index around the ring and the fill count up to the ring length; a FILLING one is
ACTIVE, with FAR_ACTIVE latched, exactly when the fill count then covers D + Nf; and in ABSENT, UNSET and WAITING the far
section and history memory are left. -/
def Obligations.LinesAndStampAdvance : Prop :=
  ∀ (ph : Phase) (n : Nat) (e : SampleEntry) (c : Call) (cells : List (Nat × Sample)),
    (sampleStages ph n e c cells).call.stamp.toNat = (c.stamp.toNat + e.gap.toNat + 1) % 65536 ∧
    (sampleStages ph n e c cells).call.nearLine =
      (e.symbol :: (List.replicate e.gap.toNat Cplx.zero ++ c.nearLine)).take c.nearLine.length ∧
    (sampleStages ph n e c cells).call.eqLine =
      (((historyStages e c cells).values e).e1 :: ((historyStages e c cells).values e).e0 ::
        (List.replicate (2 * e.gap.toNat) Cplx.zero ++ c.eqLine)).take c.eqLine.length ∧
    (.gap ∈ (sampleStages ph n e c cells).latched ↔ e.gap ≠ 0) ∧
    ((∀ r, c.far ≠ .filling r) → (∀ r, c.far ≠ .active r) →
      (sampleStages ph n e c cells).call.far = c.far ∧ (sampleStages ph n e c cells).cells = cells ∧
      .farActive ∉ (sampleStages ph n e c cells).latched) ∧
    ∀ r : Ring, (c.far = .filling r ∨ c.far = .active r) →
      ∃ w : Ring × List (Nat × Sample), w = r.putAll (List.replicate e.gap.toNat Cplx.zero ++ [e.symbol]) cells ∧
        (sampleStages ph n e c cells).cells = w.2 ∧ w.1.delay = r.delay ∧ w.1.pages = r.pages ∧
        (r.writeIndex < 64 * r.pages.length →
          w.1.writeIndex = (r.writeIndex + e.gap.toNat + 1) % (64 * r.pages.length)) ∧
        (r.fill ≤ 64 * r.pages.length → w.1.fill = min (r.fill + e.gap.toNat + 1) (64 * r.pages.length)) ∧
        (sampleStages ph n e c cells).call.far =
          (if c.far = .filling r ∧ w.1.fill < r.delay + c.settings.nf then .filling w.1 else .active w.1) ∧
        (.farActive ∈ (sampleStages ph n e c cells).latched ↔ c.far = .filling r ∧ r.delay + c.settings.nf ≤ w.1.fill)

/-- R72, R73, R45, R71: a ring that has received the symbols `xs`, the first in the list first, since its pages were granted
supplies as far symbols x(n−D−k) the symbols written D + k symbols before the last, for every k for which that many have
been written, wherever the ring wraps. -/
def Obligations.FarWindowIsTheDelayedSymbols : Prop :=
  ∀ (delay nf : Nat) (pages : List Page) (cells : List (Nat × Sample)) (xs : List Sample),
    pages.Nodup → delay + nf ≤ 64 * pages.length → 1 ≤ nf → delay + nf ≤ xs.length →
    ∀ k < nf, (((Ring.granted delay pages).putAll xs cells).1.window ((Ring.granted delay pages).putAll xs cells).2 nf)[k]?
      = xs.reverse[delay + k]?

/-- R44, R46, R47: each replica part is the exact sum of the filtering products over the near line and over the far symbols,
rounded by 22 and clamped to 16 bits; the far symbols are the Nf that the ring read supplies when the far state is ACTIVE,
and none in every other far state (R45); each residual part is the received part less the replica part, clamped; and the
clamp of a residual is noted exactly when a part is outside the range. -/
def Obligations.ReplicaAndResidual : Prop :=
  ∀ (p : Progress) (e : SampleEntry), p.call.nearLine.length = p.call.settings.nn →
    p.call.nearTaps.length = 2 * p.call.settings.nn → p.call.farTaps.length = 2 * p.call.settings.nf →
    let v := p.values e
    let nn := p.call.settings.nn
    let nf := p.farWindow.length
    (∀ r, p.call.far = .active r → p.farWindow = r.window p.cells p.call.settings.nf ∧ nf = p.call.settings.nf) ∧
    ((∀ r, p.call.far ≠ .active r) → p.farWindow = []) ∧
    (v.y0.i.toInt = max (-32768) (min 32767 ((filterSumI (p.call.nearTaps.take nn) p.call.nearLine nn
      + filterSumI (p.call.farTaps.take p.call.settings.nf) p.farWindow nf + 2097152) / 4194304))) ∧
    (v.y0.q.toInt = max (-32768) (min 32767 ((filterSumQ (p.call.nearTaps.take nn) p.call.nearLine nn
      + filterSumQ (p.call.farTaps.take p.call.settings.nf) p.farWindow nf + 2097152) / 4194304))) ∧
    (v.y1.i.toInt = max (-32768) (min 32767 ((filterSumI (p.call.nearTaps.drop nn) p.call.nearLine nn
      + filterSumI (p.call.farTaps.drop p.call.settings.nf) p.farWindow nf + 2097152) / 4194304))) ∧
    (v.y1.q.toInt = max (-32768) (min 32767 ((filterSumQ (p.call.nearTaps.drop nn) p.call.nearLine nn
      + filterSumQ (p.call.farTaps.drop p.call.settings.nf) p.farWindow nf + 2097152) / 4194304))) ∧
    v.e0.i.toInt = max (-32768) (min 32767 (e.r0.i.toInt - v.y0.i.toInt)) ∧
    v.e0.q.toInt = max (-32768) (min 32767 (e.r0.q.toInt - v.y0.q.toInt)) ∧
    v.e1.i.toInt = max (-32768) (min 32767 (e.r1.i.toInt - v.y1.i.toInt)) ∧
    v.e1.q.toInt = max (-32768) (min 32767 (e.r1.q.toInt - v.y1.q.toInt)) ∧
    (v.residualClamped = true ↔ ∃ d ∈ [e.r0.i.toInt - v.y0.i.toInt, e.r0.q.toInt - v.y0.q.toInt,
      e.r1.i.toInt - v.y1.i.toInt, e.r1.q.toInt - v.y1.q.toInt], d < -32768 ∨ 32767 < d)

/-- R78, R79, R83, R82, R47: e0 and then e1 enter the equalizer line; each part of the soft symbol is the exact sum of the
filtering products of the equalizer taps over the line, rounded by 22 and clamped to 16 bits; each part of the error is the
reference's part, or the decision's where the entry has no reference, less the soft symbol's, clamped; and RESIDUAL_CLIP and
SOFT_CLIP are noted exactly when a residual and the soft symbol are clamped. -/
def Obligations.SoftSymbolAndError : Prop :=
  ∀ (p : Progress) (e : SampleEntry), p.call.Shaped → 2 ≤ p.call.settings.ne →
    let v := p.values e
    let q := p.filter v
    let ne := p.call.settings.ne
    let sumI := (filterSumI p.call.eqTaps q.call.eqLine ne + 2097152) / 4194304
    let sumQ := (filterSumQ p.call.eqTaps q.call.eqLine ne + 2097152) / 4194304
    let target := e.reference.getD v.decision
    q.call.eqLine = v.e1 :: v.e0 :: p.call.eqLine.take (ne - 2) ∧
    q = { p with call := { p.call with eqLine := q.call.eqLine }, latched := q.latched } ∧
    v.soft.i.toInt = max (-32768) (min 32767 sumI) ∧ v.soft.q.toInt = max (-32768) (min 32767 sumQ) ∧
    v.decision = slice p.call.settings v.soft ∧
    v.error.i.toInt = max (-32768) (min 32767 (target.i.toInt - v.soft.i.toInt)) ∧
    v.error.q.toInt = max (-32768) (min 32767 (target.q.toInt - v.soft.q.toInt)) ∧
    (.softClip ∈ q.latched ↔ .softClip ∈ p.latched ∨ sumI < -32768 ∨ 32767 < sumI ∨ sumQ < -32768 ∨ 32767 < sumQ) ∧
    (.residualClip ∈ q.latched ↔ .residualClip ∈ p.latched ∨ v.residualClamped = true)

/-- R38, R39: rounding by S is the floor of (v + 2^(S−1)) / 2^S; sat16 and sat24 give the nearest value in range, and a
clamp is noted exactly when a part is changed. -/
def Obligations.RoundingAndSaturation : Prop :=
  (∀ (shift : Nat) (v : Int), 1 ≤ shift →
    roundShift shift v * 2 ^ shift ≤ v + 2 ^ (shift - 1) ∧ v + 2 ^ (shift - 1) < (roundShift shift v + 1) * 2 ^ shift) ∧
  (∀ v : CInt,
    (saturate 16 v).i.toInt = max (-32768) (min 32767 v.i) ∧ (saturate 16 v).q.toInt = max (-32768) (min 32767 v.q) ∧
    (clamps 16 v = true ↔ v.i < -32768 ∨ 32767 < v.i ∨ v.q < -32768 ∨ 32767 < v.q)) ∧
  ∀ v : CInt,
    (saturate 24 v).i.toInt = max (-8388608) (min 8388607 v.i) ∧
    (saturate 24 v).q.toInt = max (-8388608) (min 8388607 v.q) ∧
    (clamps 24 v = true ↔ v.i < -8388608 ∨ 8388607 < v.i ∨ v.q < -8388608 ∨ 8388607 < v.q)

/-- R81, R80: each part of the decision is one of the M levels ±g, ±3g, …, ±(M−1)g, where M is 2, 4, 8 or 16 by the levels
code 0, 1, 2 or 3, none of the levels is nearer to the part
of the soft symbol, and a part half-way between two levels goes to the more positive one. -/
def Obligations.DecisionIsTheNearestLevel : Prop :=
  ∀ (p : Profile) (z : Sample), p.inRange = true →
    (p.levelsCode ≤ 3 ∧ p.levels = 2 ^ (p.levelsCode + 1)) ∧ ∀ v d : BitVec 16,
    (v = z.i ∧ d = (slice p z).i ∨ v = z.q ∧ d = (slice p z).q) →
    (∃ i : Int, 0 ≤ i ∧ i < p.levels ∧ d.toInt = (2 * i - p.levels + 1) * p.grid) ∧
    ∀ i : Int, 0 ≤ i → i < p.levels →
      |v.toInt - d.toInt| ≤ |v.toInt - (2 * i - p.levels + 1) * p.grid| ∧
      (|v.toInt - d.toInt| = |v.toInt - (2 * i - p.levels + 1) * p.grid| →
        (2 * i - p.levels + 1) * p.grid ≤ d.toInt)

/-- R107, R108, R110, R111, R109, R90: stage 8. The powers are averaged exactly and stay within their bounds; the states are
compared with the thresholds; an enabled crossing latches its condition, and DIVERGED sets the hold; with the error monitor
off Q, the error state and the hold are left. -/
def Obligations.MonitorsFollowTheirPowers : Prop :=
  ∀ (p : Progress) (v : SampleValues),
    let s := p.call.settings
    let a := p.signalMonitor v
    let b := p.errorMonitor v
    a.call.signalPower = p.call.signalPower - p.call.signalPower / 2 ^ s.ks
      + ((squaredMagnitude v.e0 + squaredMagnitude v.e1) / 2) / 2 ^ s.ks ∧
    (p.call.signalPower ≤ 2 ^ 31 + 2 ^ s.ks → a.call.signalPower ≤ 2 ^ 31 + 2 ^ s.ks) ∧
    (a.call.signalState = .present ↔ (p.call.signalState = .absent ∧ s.tOn ≤ a.call.signalPower) ∨
      (p.call.signalState = .present ∧ s.tOff ≤ a.call.signalPower)) ∧
    (.signalOn ∈ a.latched ↔ .signalOn ∈ p.latched ∨
      (s.signalRise = true ∧ p.call.signalState = .absent ∧ a.call.signalState = .present)) ∧
    (.signalOff ∈ a.latched ↔ .signalOff ∈ p.latched ∨
      (s.signalFall = true ∧ p.call.signalState = .present ∧ a.call.signalState = .absent)) ∧
    ((s.errorRise = true ∨ s.errorFall = true) →
      b.call.errorPower = p.call.errorPower - p.call.errorPower / 2 ^ s.kq + squaredMagnitude v.error / 2 ^ s.kq ∧
      (p.call.errorPower < 2 ^ 32 → 1 ≤ s.kq → s.kq ≤ 12 → b.call.errorPower < 2 ^ 32) ∧
      (b.call.errorState = .settled ↔ (p.call.errorState = .unsettled ∧ b.call.errorPower < s.tConv) ∨
        (p.call.errorState = .settled ∧ b.call.errorPower ≤ s.tDiv)) ∧
      (.converged ∈ b.latched ↔ .converged ∈ p.latched ∨
        (s.errorFall = true ∧ p.call.errorState = .unsettled ∧ b.call.errorState = .settled)) ∧
      (.diverged ∈ b.latched ↔ .diverged ∈ p.latched ∨
        (s.errorRise = true ∧ p.call.errorState = .settled ∧ b.call.errorState = .unsettled)) ∧
      (b.call.hold = true ↔ p.call.hold = true ∨
        (s.errorRise = true ∧ p.call.errorState = .settled ∧ b.call.errorState = .unsettled))) ∧
    (s.errorRise = false → s.errorFall = false → b = p)

/-- R48, R49, R51, R52, R53, R54, R29: stage 9. When the entry may adapt the echo taps, every near tap c[p][k] becomes
sat24(c[p][k] + round_Se(e_p·conj(x(n−k)))), where e·conj(x) has the parts ac + bd and bc − ad (R37, R38), and the far taps follow by the same rule over the far symbols when far-adapt is
on and the far state ACTIVE; otherwise no echo tap changes. TAP_CLIP is noted exactly when an update clamps a tap (R51). A
clipped record changes none and notes INPUT_CLIP. -/
def Obligations.EchoTapsAdaptOnlyWhenPermitted : Prop :=
  ∀ (p : Progress) (ph : Phase) (e : SampleEntry) (v : SampleValues), p.call.Shaped →
    let q := p.echoAdaptation ph e v
    let nn := p.call.settings.nn
    let may := p.call.frozen = false ∧ p.call.paused = false ∧ e.clipped = false ∧ ph.se ≠ 0 ∧
      ((p.call.settings.gate = .internal ∧ p.call.signalState = .absent) ∨
        (p.call.settings.gate = .pump ∧ e.quiet = true) ∨ (p.call.settings.gate = .pumpInverted ∧ e.quiet = false) ∨
        (p.call.settings.gate = .both ∧ p.call.signalState = .absent ∧ e.quiet = true))
    (¬may → q.call = p.call ∧ q.latched = p.latched ++ (if e.clipped then [.inputClip] else [])) ∧
    let nf := p.call.settings.nf
    let sumI := fun (error : Sample) (taps : List Tap) (xs : List Sample) (place k : Nat) =>
      stepSumI ph.se error (xs.getD k Cplx.zero) (taps.getD place Cplx.zero).i.toInt
    let sumQ := fun (error : Sample) (taps : List Tap) (xs : List Sample) (place k : Nat) =>
      stepSumQ ph.se error (xs.getD k Cplx.zero) (taps.getD place Cplx.zero).q.toInt
    (may → q.call.nearTaps.length = 2 * nn ∧ ∀ k < nn,
      HoldsClamped q.call.nearTaps k (sumI v.e0 p.call.nearTaps p.call.nearLine k k)
        (sumQ v.e0 p.call.nearTaps p.call.nearLine k k) ∧
      HoldsClamped q.call.nearTaps (nn + k) (sumI v.e1 p.call.nearTaps p.call.nearLine (nn + k) k)
        (sumQ v.e1 p.call.nearTaps p.call.nearLine (nn + k) k)) ∧
    (may → ph.farAdapt = true → ∀ r, p.call.far = .active r → q.call.farTaps.length = 2 * nf ∧ ∀ k < nf,
      HoldsClamped q.call.farTaps k (sumI v.e0 p.call.farTaps p.farWindow k k)
        (sumQ v.e0 p.call.farTaps p.farWindow k k) ∧
      HoldsClamped q.call.farTaps (nf + k) (sumI v.e1 p.call.farTaps p.farWindow (nf + k) k)
        (sumQ v.e1 p.call.farTaps p.farWindow (nf + k) k)) ∧
    ((ph.farAdapt = false ∨ ∀ r, p.call.far ≠ .active r) → q.call.farTaps = p.call.farTaps) ∧
    (may → q = { p with call := { p.call with nearTaps := q.call.nearTaps, farTaps := q.call.farTaps }
                        latched := q.latched }) ∧
    (may → (.tapClip ∈ q.latched ↔ .tapClip ∈ p.latched ∨
      (∃ k < nn, OutsideTapRange (sumI v.e0 p.call.nearTaps p.call.nearLine k k)
          (sumQ v.e0 p.call.nearTaps p.call.nearLine k k) ∨
        OutsideTapRange (sumI v.e1 p.call.nearTaps p.call.nearLine (nn + k) k)
          (sumQ v.e1 p.call.nearTaps p.call.nearLine (nn + k) k)) ∨
      (ph.farAdapt = true ∧ (∃ r, p.call.far = .active r) ∧ ∃ k < nf,
        OutsideTapRange (sumI v.e0 p.call.farTaps p.farWindow k k) (sumQ v.e0 p.call.farTaps p.farWindow k k) ∨
        OutsideTapRange (sumI v.e1 p.call.farTaps p.farWindow (nf + k) k)
          (sumQ v.e1 p.call.farTaps p.farWindow (nf + k) k))))

/-- R87, R86, R88, R89, R29: stage 10. When the entry may adapt the equalizer, every part v of a tap w[j] is
leaked to v − round_L(v), or kept with L = 0, and the tap becomes sat24(leaked + round_Sw(ε·conj(s_j))), where ε·conj(s) has
the parts ac + bd and bc − ad (R37, R38), and TAP_CLIP is noted exactly when a tap is clamped; otherwise nothing changes. -/
def Obligations.EqualizerTapsAdaptOnlyWhenPermitted : Prop :=
  ∀ (p : Progress) (ph : Phase) (e : SampleEntry) (v : SampleValues), p.call.Shaped →
    let q := p.eqAdaptation ph e v
    let may := p.call.frozen = false ∧ p.call.paused = false ∧ p.call.hold = false ∧ e.clipped = false ∧ ph.sw ≠ 0 ∧
      (ph.mode = .decision ∨ (ph.mode = .reference ∧ e.reference.isSome = true))
    let sumI := fun j => stepSumI ph.sw v.error (p.call.eqLine.getD j Cplx.zero)
      (leakedPart ph.leak (p.call.eqTaps.getD j Cplx.zero).i.toInt)
    let sumQ := fun j => stepSumQ ph.sw v.error (p.call.eqLine.getD j Cplx.zero)
      (leakedPart ph.leak (p.call.eqTaps.getD j Cplx.zero).q.toInt)
    (¬may → q = p) ∧
    (may → q.call.eqTaps.length = p.call.settings.ne ∧
      (∀ j < p.call.settings.ne, HoldsClamped q.call.eqTaps j (sumI j) (sumQ j)) ∧
      q = { p with call := { p.call with eqTaps := q.call.eqTaps }, latched := q.latched } ∧
      (.tapClip ∈ q.latched ↔ .tapClip ∈ p.latched ∨ ∃ j < p.call.settings.ne, OutsideTapRange (sumI j) (sumQ j)))

/-- R88, R38: for every leak shift L of 1..15 the leaked value of a tap part v is v − floor((v + 2^(L−1)) / 2^L); it lies
between the part and 0, both included, and a part
from −2^(L−1) to 2^(L−1) − 1 keeps its value; with L = 0 the part is kept. -/
def Obligations.LeakMovesTowardsZero : Prop :=
  ∀ (leak : Nat) (v : Int), leak ≤ 15 →
    (0 ≤ v → 0 ≤ leakPart leak v ∧ leakPart leak v ≤ v) ∧ (v ≤ 0 → v ≤ leakPart leak v ∧ leakPart leak v ≤ 0) ∧
    (leak = 0 → leakPart leak v = v) ∧
    (1 ≤ leak → leakPart leak v = v - (v + 2 ^ (leak - 1)) / 2 ^ leak) ∧
    (1 ≤ leak → -2 ^ (leak - 1) ≤ v → v ≤ 2 ^ (leak - 1) - 1 → leakPart leak v = v)

/-- R96, R97, R95: stage 11. A frozen or paused entry is not counted. A counted one raises the record count; at the length of
a phase of nonzero length the cursor enters the next phase with PHASE_ENTERED, and in the last phase stays with
SCHEDULE_END, once; a phase of length 0 is never left, and its count stays at 65535. -/
def Obligations.ScheduleCursorAdvances : Prop :=
  ∀ (p : Progress) (ph : Phase) (n : Nat),
    let q := p.schedule ph n
    ((p.call.frozen = true ∨ p.call.paused = true) → q = p) ∧
    (p.call.frozen = false → p.call.paused = false →
      (ph.length ≠ 0 → p.call.count + 1 = ph.length → p.call.phase + 1 < n →
        q = { p with call := { p.call with phase := p.call.phase + 1, count := 0 }
                     latched := p.latched ++ [.phaseEntered] }) ∧
      (ph.length ≠ 0 → p.call.count + 1 = ph.length → n ≤ p.call.phase + 1 →
        q = { p with call := { p.call with count := ph.length }, latched := p.latched ++ [.scheduleEnd] }) ∧
      (p.call.count + 1 < ph.length → q = { p with call := { p.call with count := p.call.count + 1 } }) ∧
      (ph.length ≠ 0 → ph.length ≤ p.call.count → q = p) ∧
      (ph.length = 0 → p.call.count < 65535 → q = { p with call := { p.call with count := p.call.count + 1 } }) ∧
      (ph.length = 0 → 65535 ≤ p.call.count → q = p))

/-- R17, R31, R18: the RESULT of an entry, with its soft symbol, decision, error and stamp, enters the output queue at the
tail; at a queue of four the head is lost and OUTPUT_LOST is latched. -/
def Obligations.ResultEntersTheOutputQueue : Prop :=
  ∀ (p : Progress) (v : SampleValues),
    let r : ResultEntry := { soft := v.soft, decision := v.decision, error := v.error, stamp := p.call.stamp }
    (p.call.outputQueue.length < 4 → p.result v = { p with call := { p.call with outputQueue := p.call.outputQueue ++ [r] } }) ∧
    (∀ head rest, p.call.outputQueue = head :: rest → rest.length = 3 →
      p.result v = { p with call := { p.call with outputQueue := rest ++ [r] }, latched := p.latched ++ [.outputLost] })

/-! ### Conditions -/

/-- R112, R114: latching a pending condition changes nothing. Otherwise it becomes pending, no other condition changes, and
under EVERY the status-due flag is set; under FIRST both flags are set when first-reported is clear and neither changes when
it is set; under NONE neither changes. -/
def Obligations.LatchFollowsTheReportMode : Prop :=
  ∀ (c : Call) (x : Condition),
    (c.isPending x = true → c.latch x = c) ∧
    (c.isPending x = false →
      (∀ y, (c.latch x).isPending y = true ↔ c.isPending y = true ∨ y = x) ∧
      (c.latch x).statusDue = (c.statusDue || (match c.settings.reportMode with
        | .every => true
        | .first => !c.firstReported
        | .none => false)) ∧
      (c.latch x).firstReported = (c.firstReported || (c.settings.reportMode == .first)) ∧
      c.latch x = { c with conditions := (c.latch x).conditions, statusDue := (c.latch x).statusDue
                           firstReported := (c.latch x).firstReported })

/-- R113: the status code is the number of the highest-priority condition pending, the smallest code, or 0 when none is. -/
def Obligations.StatusCodeIsTheSmallestPending : Prop :=
  ∀ c : Call,
    ((∀ x : Condition, c.isPending x = false) → c.statusCode = 0) ∧
    ∀ x : Condition, c.isPending x = true → (∀ y : Condition, c.isPending y = true → x.code ≤ y.code) →
      c.statusCode = x.code

/-! ### Controls -/

/-- R99, R100, R33, R32: FREEZE sets and THAW clears the frozen flag, and a CONTROL of an unknown kind has no effect on its
context; then the engine chooses again. Nothing else changes. -/
def Obligations.FreezeThawAndUnknownControls : Prop :=
  ∀ (s : State) (i : CtxNum) (e : ControlEntry) (c : Call),
    s.engine.job = some { context := i, entry := .control e } → s.contexts[i] = .live c →
    (e.kind = 1 → exec .freeze s = .next (State.takeNext
      { s with
        contexts := s.contexts.set i (.live { c with frozen := true })
        engine := { s.engine with job := none } })) ∧
    (e.kind = 2 → exec .thaw s = .next (State.takeNext
      { s with
        contexts := s.contexts.set i (.live { c with frozen := false })
        engine := { s.engine with job := none } })) ∧
    ((e.kind.toNat = 0 ∨ 9 ≤ e.kind.toNat) →
      exec .unknownControl s = .next (State.takeNext { s with engine := { s.engine with job := none } }))

/-- R101, R102, R103: RETRAIN sets the cursor to phase 0 with count 0, clears the hold, resets the error monitor, zeroes the
taps its options name, and aborts a running export with EXPORT_ABORTED. Nothing else changes. With the error monitor off
the error power becomes 0 whatever it held (R109, read as assumption log entry 19 says). -/
def Obligations.RetrainRestartsTheSchedule : Prop :=
  ∀ (s : State) (i : CtxNum) (e : ControlEntry) (c : Call),
    s.engine.job = some { context := i, entry := .control e } → e.kind = 3 → s.contexts[i] = .live c →
    ∃ d : Call,
      exec .retrain s = .next (State.takeNext
        { s with contexts := s.contexts.set i (.live d), engine := { s.engine with job := none } }) ∧
      (c.exportRun = none → d =
        { c with
          phase := 0, count := 0, hold := false, errorState := .unsettled
          errorPower := if c.settings.errorRise || c.settings.errorFall then c.settings.tDiv else 0
          eqTaps := if e.bytes[0].getLsbD 0 then List.replicate c.eqTaps.length ⟨0, 0⟩ else c.eqTaps
          nearTaps := if e.bytes[0].getLsbD 1 then List.replicate c.nearTaps.length ⟨0, 0⟩ else c.nearTaps
          farTaps := if e.bytes[0].getLsbD 1 then List.replicate c.farTaps.length ⟨0, 0⟩ else c.farTaps }) ∧
      (c.exportRun.isSome = true → d = Call.latch
        { c with
          phase := 0, count := 0, hold := false, errorState := .unsettled
          errorPower := if c.settings.errorRise || c.settings.errorFall then c.settings.tDiv else 0
          eqTaps := if e.bytes[0].getLsbD 0 then List.replicate c.eqTaps.length ⟨0, 0⟩ else c.eqTaps
          nearTaps := if e.bytes[0].getLsbD 1 then List.replicate c.nearTaps.length ⟨0, 0⟩ else c.nearTaps
          farTaps := if e.bytes[0].getLsbD 1 then List.replicate c.farTaps.length ⟨0, 0⟩ else c.farTaps
          exportRun := none } .exportAborted)

/-- R65, R66, R67, R68, R62: FAR_DELAY for a LIVE context. It is refused with FAR_REFUSED when the far state is ABSENT or
D + Nf exceeds 4096. Taken, it zeroes the far taps; in UNSET it is granted its pages at once when no one waits and the free
count covers the need, and otherwise waits with FAR_WAITING; in FILLING and ACTIVE with enough pages it keeps them and is
ACTIVE exactly when the fill count covers D + Nf; with too few it first returns them, and in WAITING it first leaves the
wait list. -/
def Obligations.FarDelayTakesKeepsOrRefuses : Prop :=
  ∀ (s : State) (i : CtxNum) (e : ControlEntry) (c : Call),
    s.engine.job = some { context := i, entry := .control e } → e.kind = 4 → s.contexts[i] = .live c →
    let d := ((e.bytes[0] ++ e.bytes[1]).toNat) % 4096
    let need := (d + c.settings.nf + 63) / 64
    let zeros : List Tap := List.replicate c.farTaps.length ⟨0, 0⟩
    let ended : State := { s with engine := { s.engine with job := none } }
    ((c.far = .absent ∨ 4096 < d + c.settings.nf) →
      exec .farDelay s = .next (State.takeNext
        { ended with contexts := s.contexts.set i (.live (c.latch .farRefused)) })) ∧
    (c.far = .unset → d + c.settings.nf ≤ 4096 → s.history.waitList = [] → need ≤ s.history.freePages.length →
      exec .farDelay s = .next (State.takeNext
        { ended with
          contexts := s.contexts.set i (.live { c with
            farTaps := zeros
            far := .filling { delay := d, pages := s.history.freePages.take need, writeIndex := 0, fill := 0 } })
          history := { s.history with freePages := s.history.freePages.drop need } })) ∧
    (c.far = .unset → d + c.settings.nf ≤ 4096 →
      (s.history.waitList ≠ [] ∨ s.history.freePages.length < need) →
      exec .farDelay s = .next (State.takeNext
        { ended with
          contexts := s.contexts.set i (.live ({ c with farTaps := zeros, far := .waiting d }.latch .farWaiting))
          history := { s.history with waitList := s.history.waitList ++ [(i, need)] } })) ∧
    (∀ r, c.far = .active r → d + c.settings.nf ≤ 4096 → need ≤ r.pages.length →
      exec .farDelay s = .next (State.takeNext
        { ended with contexts := s.contexts.set i (.live { c with
            farTaps := zeros
            far := if d + c.settings.nf ≤ r.fill then .active { r with delay := d } else .filling { r with delay := d } }) })) ∧
    (∀ r, c.far = .filling r → d + c.settings.nf ≤ 4096 → need ≤ r.pages.length → r.fill < d + c.settings.nf →
      exec .farDelay s = .next (State.takeNext
        { ended with contexts := s.contexts.set i (.live { c with
            farTaps := zeros, far := .filling { r with delay := d } }) })) ∧
    (∀ r, c.far = .filling r → d + c.settings.nf ≤ 4096 → need ≤ r.pages.length → d + c.settings.nf ≤ r.fill →
      exec .farDelay s = .next (State.takeNext
        { ended with contexts := s.contexts.set i (.live ({ c with
            farTaps := zeros, far := .active { r with delay := d } }.latch .farActive)) })) ∧
    (∀ r, (c.far = .filling r ∨ c.far = .active r) → d + c.settings.nf ≤ 4096 → r.pages.length < need →
      exec .farDelay s = .next (State.takeNext (State.requestPages
        (State.returnPages { ended with contexts := s.contexts.set i (.live { c with farTaps := zeros, far := .unset }) }
          r.pages) i { c with farTaps := zeros, far := .unset } d need))) ∧
    (∀ d', c.far = .waiting d' → d + c.settings.nf ≤ 4096 →
      exec .farDelay s = .next (State.takeNext (State.requestPages
        (State.runGrantRule
          { ended with
            contexts := s.contexts.set i (.live { c with farTaps := zeros, far := .unset })
            history := { s.history with waitList := s.history.waitList.filter fun x => x.1 != i } })
        i { c with farTaps := zeros, far := .unset } d need)))

/-- R70: FAR_OFF for a LIVE context, by its far state: nothing in ABSENT and UNSET; in WAITING the context leaves the wait
list and the grant rule runs; in FILLING and ACTIVE its pages return to the tail of the free page list and the grant rule
runs; the far state becomes UNSET. -/
def Obligations.FarOffReturnsThePages : Prop :=
  ∀ (s : State) (i : CtxNum) (e : ControlEntry) (c : Call),
    s.engine.job = some { context := i, entry := .control e } → e.kind = 5 → s.contexts[i] = .live c →
    let ended : State := { s with engine := { s.engine with job := none } }
    ((c.far = .absent ∨ c.far = .unset) → exec .farOff s = .next ended.takeNext) ∧
    (∀ d, c.far = .waiting d →
      exec .farOff s = .next (State.takeNext (State.runGrantRule
        { ended with
          contexts := s.contexts.set i (.live { c with far := .unset })
          history := { s.history with waitList := s.history.waitList.filter fun x => x.1 != i } }))) ∧
    ∀ r, (c.far = .filling r ∨ c.far = .active r) →
      exec .farOff s = .next (State.takeNext (State.runGrantRule
        { ended with
          contexts := s.contexts.set i (.live { c with far := .unset })
          history := { s.history with freePages := s.history.freePages ++ r.pages } }))

/-- R117, R91, R169: CLEAR removes from the condition set exactly the conditions that its mask names by bit c − 1 of bytes
1..3, clears the first-reported flag, and clears the hold when the mask names DIVERGED. Nothing else changes. -/
def Obligations.ClearRemovesTheNamedConditions : Prop :=
  ∀ (s : State) (i : CtxNum) (e : ControlEntry) (c : Call),
    s.engine.job = some { context := i, entry := .control e } → e.kind = 6 → s.contexts[i] = .live c →
    ∃ d : Call,
      exec .clear s = .next (State.takeNext
        { s with contexts := s.contexts.set i (.live d), engine := { s.engine with job := none } }) ∧
      d = { c with conditions := d.conditions, firstReported := false, hold := c.hold && !e.bytes[2].getLsbD 0 } ∧
      ∀ x : Condition, d.isPending x =
        (c.isPending x && !(e.bytes[0] ++ e.bytes[1] ++ e.bytes[2]).getLsbD (x.code - 1))

/-- R121, R122, R119: EXPORT replaces a running export with EXPORT_ABORTED. When the first segment lies past the section, or
the code names no section, it ends at once with EXPORT_DONE and leaves no record; otherwise its record runs from the first
segment to S − 1 for a count of 0, and to first + count − 1 cut to S − 1 otherwise. Nothing else changes. -/
def Obligations.ExportSetsUpItsRecord : Prop :=
  ∀ (s : State) (i : CtxNum) (e : ControlEntry) (c : Call),
    s.engine.job = some { context := i, entry := .control e } → e.kind = 7 → s.contexts[i] = .live c →
    let first := e.bytes[1].toNat
    let count := e.bytes[2].toNat
    let stopped : Call := if c.exportRun.isSome then { c with exportRun := none }.latch .exportAborted else c
    let answer := fun d : Call => State.takeNext
      { s with contexts := s.contexts.set i (.live d), engine := { s.engine with job := none } }
    ∀ (part : TapSection) (segments : Nat),
      (part = .near ∧ segments = c.settings.nn ∨ part = .far ∧ segments = c.settings.nf ∨
        part = .eq ∧ segments = c.settings.ne / 2) →
      ((sectionCode part = e.bytes[0] → first < segments →
        exec .exportTaps s = .next (answer { stopped with
          exportRun := some {
            part := part, next := first
            last := if count = 0 then segments - 1 else min (first + count - 1) (segments - 1)
            consistent := e.bytes[3].getLsbD 0 } })) ∧
      (sectionCode part = e.bytes[0] → segments ≤ first →
        exec .exportTaps s = .next (answer (stopped.latch .exportDone))) ∧
      (3 ≤ e.bytes[0].toNat → exec .exportTaps s = .next (answer (stopped.latch .exportDone))))

/-- R128, R129: IMPORT writes its two taps at places 2m and 2m + 1 of the named section when the context is frozen and the
section has the segment; otherwise it changes no tap and latches IMPORT_REFUSED. Nothing else changes. -/
def Obligations.ImportWritesTwoTapsOrIsRefused : Prop :=
  ∀ (s : State) (i : CtxNum) (e : ControlEntry) (c : Call),
    s.engine.job = some { context := i, entry := .control e } → e.kind = 8 → s.contexts[i] = .live c →
    let m := e.bytes[1].toNat
    let t : Tap := ⟨e.bytes[2] ++ e.bytes[3] ++ e.bytes[4], e.bytes[5] ++ e.bytes[6] ++ e.bytes[7]⟩
    let u : Tap := ⟨e.bytes[8] ++ e.bytes[9] ++ e.bytes[10], e.bytes[11] ++ e.bytes[12] ++ e.bytes[13]⟩
    let answer := fun d : Call => State.takeNext
      { s with contexts := s.contexts.set i (.live d), engine := { s.engine with job := none } }
    (c.frozen = true → e.bytes[0] = 0 → m < c.settings.nn →
      exec .importTaps s = .next (answer { c with nearTaps := (c.nearTaps.set (2 * m) t).set (2 * m + 1) u })) ∧
    (c.frozen = true → e.bytes[0] = 1 → m < c.settings.nf →
      exec .importTaps s = .next (answer { c with farTaps := (c.farTaps.set (2 * m) t).set (2 * m + 1) u })) ∧
    (c.frozen = true → e.bytes[0] = 2 → m < c.settings.ne / 2 →
      exec .importTaps s = .next (answer { c with eqTaps := (c.eqTaps.set (2 * m) t).set (2 * m + 1) u })) ∧
    ((c.frozen = false ∨ (e.bytes[0] = 0 ∧ c.settings.nn ≤ m) ∨ (e.bytes[0] = 1 ∧ c.settings.nf ≤ m) ∨
        (e.bytes[0] = 2 ∧ c.settings.ne / 2 ≤ m) ∨ 3 ≤ e.bytes[0].toNat) →
      exec .importTaps s = .next (answer (c.latch .importRefused)))

/-! ### Upstream -/

/-- R136, R116, R123, R124, R137, R138: the record written for the owning context is the head RESULT, which leaves the queue;
otherwise a due STATUS, which clears the flag; otherwise the next export segment, whose last one removes the record and
latches EXPORT_DONE; otherwise IDLE. Its contents and status code are taken before the write's own effects. A lane that no
LIVE context owns is not driven. The half driven is held in the state as assumption log entry 8 says, and a segment past its section, which no run meets,
reads as taps (0, 0) (entry 17). -/
def Obligations.UpstreamWriteChoosesOneRecord : Prop :=
  (∀ (s : State) (lane : Lane) (i : CtxNum) (c : Call), s.loader.station = .active → s.highway.lapsed = false →
    s.contexts[i] = .live c → c.lane = lane →
    (∀ (n : CtxNum) (d : Call), s.contexts[n] = .live d → d.lane = lane → n = i) →
    let code := BitVec.ofNat 8 c.statusCode
    let answer := fun (d : Call) (r : UpstreamRecord) =>
      { s with contexts := s.contexts.set i (.live d)
               highway := { s.highway with upstreamHalf := some { lane := lane, bytes := r.bytes } } }
    (∀ r rest, c.outputQueue = r :: rest →
      exec (.upstreamWrite lane) s = .next (answer { c with outputQueue := rest } (.result code r))) ∧
    (c.outputQueue = [] → c.statusDue = true →
      exec (.upstreamWrite lane) s = .next (answer { c with statusDue := false }
        (.status code c.stamp c.conditions c.signalState c.errorState (BitVec.ofNat 32 c.signalPower)
          (BitVec.ofNat 32 c.errorPower)))) ∧
    (∀ x, c.outputQueue = [] → c.statusDue = false → c.exportRun = some x →
      exec (.upstreamWrite lane) s = .next (answer
        (if x.next = x.last then { c with exportRun := none }.latch .exportDone
          else { c with exportRun := some { x with next := x.next + 1 } })
        (.segment code (x.next == x.last) c.stamp x.part (BitVec.ofNat 8 x.next)
          ((c.sectionTaps x.part).getD (2 * x.next) Cplx.zero) ((c.sectionTaps x.part).getD (2 * x.next + 1) Cplx.zero)))) ∧
    (c.outputQueue = [] → c.statusDue = false → c.exportRun = none →
      exec (.upstreamWrite lane) s = .next (answer c (.idle code)))) ∧
  ∀ (s : State) (lane : Lane), (∀ (i : CtxNum) (c : Call), s.contexts[i] = .live c → c.lane ≠ lane) →
    exec (.upstreamWrite lane) s = .next { s with highway := { s.highway with upstreamHalf := none } }

/-! ### What holds of every step -/

/-- R95: in a state where every cursor stands in its schedule no command stops: each answers a next state. -/
def Obligations.NoCommandStops : Prop :=
  ∀ (s : State) (c : Instr), s.CursorsInRange → ∃ t : State, exec c s = .next t

/-- R58, R57: every page stays in the free page list or in exactly one context's page list, once, and history memory keeps its
canonical form. -/
def Obligations.PagesStayAccounted : Prop :=
  ∀ s t : State, Sys2Proof.Machine.step s = .next t →
    (s.PagesAccounted → t.PagesAccounted) ∧ (s.HistoryCanonical → t.HistoryCanonical)

/-- R60, R63, R64: a context stays in the wait list exactly while it is WAITING, and every far section keeps the fields that go
with its far state: an ACTIVE one has at least D + Nf symbols, within its ring. -/
def Obligations.FarSectionsStaySound : Prop :=
  ∀ s t : State, s.WaitListExact → Sys2Proof.Machine.step s = .next t →
    t.WaitListExact ∧ (s.FarSound → t.FarSound)

/-- R147, R148: the load points held and the free load stay 4096 in all, and a bid stays covered by the free load and a FREE
context. -/
def Obligations.LoadStaysAccounted : Prop :=
  ∀ s t : State, s.StationRow → s.LoadAccounted → Sys2Proof.Machine.step s = .next t → t.LoadAccounted

/-- R4: no two LIVE contexts ever hold one lane, and a lane announced or bid for is not owned. -/
def Obligations.LanesStayOwnedOnce : Prop :=
  ∀ s t : State, s.LanesOwnedOnce → Sys2Proof.Machine.step s = .next t → t.LanesOwnedOnce

/-- R21, R22, R8: the current job never names a FREE context, a context is RELEASING only while the engine works on its entry,
and an idle engine has no candidate. -/
def Obligations.EngineStaysConsistent : Prop :=
  ∀ s t : State, s.LanesOwnedOnce → s.EngineConsistent → Sys2Proof.Machine.step s = .next t → t.EngineConsistent

/-- R15, R90, R42, R43, R76, R77, R107, R109, R110, R120: input queues stay within 3 entries and output queues within 4, a context whose hold
flag is set keeps DIVERGED pending, lines and sections of taps keep their lengths, and an export record stays within its
section; and, with profiles of the table within their ranges, the signal power stays at or below 2^31 + 2^Ks and the error
power within 32 bits. -/
def Obligations.ContextSizesStayInBounds : Prop :=
  ∀ s t : State, Sys2Proof.Machine.step s = .next t →
    (s.QueuesBounded → t.QueuesBounded) ∧ (s.HoldMeansDiverged → t.HoldMeansDiverged) ∧
    (s.ContextsShaped → t.ContextsShaped) ∧ (s.ExportsInRange → t.ExportsInRange) ∧
    (s.ProfilesSound → s.PowersBounded → t.PowersBounded)

/-- R142, R155: in every station state the highway interface, the adoption unit, the loader, the fault pin and the contexts
keep the values of that state's row. -/
def Obligations.StationStateRowsHold : Prop :=
  ∀ s t : State, s.StationRow → Sys2Proof.Machine.step s = .next t → t.StationRow

/-- R93, R95, R105: every profile of the table stays within its ranges and names a valid schedule, every context keeps the
values of its profile, and every cursor stays in its schedule. -/
def Obligations.ContextsFollowTheirTables : Prop :=
  ∀ s t : State, s.StationRow → s.ProfilesSound → Sys2Proof.Machine.step s = .next t →
    t.ProfilesSound ∧ (s.CursorsInRange → t.CursorsInRange)

/-- The machine right after reset meets every law (the values of R156; the factory serial and the history memory, which the
model chooses or leaves free by assumption log entries 2 and 3, play no part in the laws). -/
def Obligations.ResetMeetsEveryLaw : Prop := State.reset.Sound
end

