-- ==== Sys2Proof/Laws/State.lean ====
section
/-! SUPPORT. What each update of the state leaves in each block: one lemma per field per update, true by `rfl`. -/

namespace Sys2Proof.Machine

variable (s : State)

/-! ### setContext -/

@[simp] theorem State.setContext_loader (i : CtxNum) (x : Context) : (s.setContext i x).loader = s.loader := rfl
@[simp] theorem State.setContext_highway (i : CtxNum) (x : Context) : (s.setContext i x).highway = s.highway := rfl
@[simp] theorem State.setContext_adoption (i : CtxNum) (x : Context) : (s.setContext i x).adoption = s.adoption := rfl
@[simp] theorem State.setContext_contexts (i : CtxNum) (x : Context) : (s.setContext i x).contexts = s.contexts.set i x := rfl
@[simp] theorem State.setContext_engine (i : CtxNum) (x : Context) : (s.setContext i x).engine = s.engine := rfl
@[simp] theorem State.setContext_history (i : CtxNum) (x : Context) : (s.setContext i x).history = s.history := rfl
@[simp] theorem State.setContext_pending (i : CtxNum) (x : Context) : (s.setContext i x).pending = s.pending := rfl

/-! ### withLoader -/

@[simp] theorem State.withLoader_loader (x : Loader) : (s.withLoader x).loader = x := rfl
@[simp] theorem State.withLoader_highway (x : Loader) : (s.withLoader x).highway = s.highway := rfl
@[simp] theorem State.withLoader_adoption (x : Loader) : (s.withLoader x).adoption = s.adoption := rfl
@[simp] theorem State.withLoader_contexts (x : Loader) : (s.withLoader x).contexts = s.contexts := rfl
@[simp] theorem State.withLoader_engine (x : Loader) : (s.withLoader x).engine = s.engine := rfl
@[simp] theorem State.withLoader_history (x : Loader) : (s.withLoader x).history = s.history := rfl
@[simp] theorem State.withLoader_pending (x : Loader) : (s.withLoader x).pending = s.pending := rfl

/-! ### withHighway -/

@[simp] theorem State.withHighway_loader (x : Highway) : (s.withHighway x).loader = s.loader := rfl
@[simp] theorem State.withHighway_highway (x : Highway) : (s.withHighway x).highway = x := rfl
@[simp] theorem State.withHighway_adoption (x : Highway) : (s.withHighway x).adoption = s.adoption := rfl
@[simp] theorem State.withHighway_contexts (x : Highway) : (s.withHighway x).contexts = s.contexts := rfl
@[simp] theorem State.withHighway_engine (x : Highway) : (s.withHighway x).engine = s.engine := rfl
@[simp] theorem State.withHighway_history (x : Highway) : (s.withHighway x).history = s.history := rfl
@[simp] theorem State.withHighway_pending (x : Highway) : (s.withHighway x).pending = s.pending := rfl

/-! ### withAdoption -/

@[simp] theorem State.withAdoption_loader (x : Adoption) : (s.withAdoption x).loader = s.loader := rfl
@[simp] theorem State.withAdoption_highway (x : Adoption) : (s.withAdoption x).highway = s.highway := rfl
@[simp] theorem State.withAdoption_adoption (x : Adoption) : (s.withAdoption x).adoption = x := rfl
@[simp] theorem State.withAdoption_contexts (x : Adoption) : (s.withAdoption x).contexts = s.contexts := rfl
@[simp] theorem State.withAdoption_engine (x : Adoption) : (s.withAdoption x).engine = s.engine := rfl
@[simp] theorem State.withAdoption_history (x : Adoption) : (s.withAdoption x).history = s.history := rfl
@[simp] theorem State.withAdoption_pending (x : Adoption) : (s.withAdoption x).pending = s.pending := rfl

/-! ### withEngine -/

@[simp] theorem State.withEngine_loader (x : Engine) : (s.withEngine x).loader = s.loader := rfl
@[simp] theorem State.withEngine_highway (x : Engine) : (s.withEngine x).highway = s.highway := rfl
@[simp] theorem State.withEngine_adoption (x : Engine) : (s.withEngine x).adoption = s.adoption := rfl
@[simp] theorem State.withEngine_contexts (x : Engine) : (s.withEngine x).contexts = s.contexts := rfl
@[simp] theorem State.withEngine_engine (x : Engine) : (s.withEngine x).engine = x := rfl
@[simp] theorem State.withEngine_history (x : Engine) : (s.withEngine x).history = s.history := rfl
@[simp] theorem State.withEngine_pending (x : Engine) : (s.withEngine x).pending = s.pending := rfl

/-! ### withHistory -/

@[simp] theorem State.withHistory_loader (x : History) : (s.withHistory x).loader = s.loader := rfl
@[simp] theorem State.withHistory_highway (x : History) : (s.withHistory x).highway = s.highway := rfl
@[simp] theorem State.withHistory_adoption (x : History) : (s.withHistory x).adoption = s.adoption := rfl
@[simp] theorem State.withHistory_contexts (x : History) : (s.withHistory x).contexts = s.contexts := rfl
@[simp] theorem State.withHistory_engine (x : History) : (s.withHistory x).engine = s.engine := rfl
@[simp] theorem State.withHistory_history (x : History) : (s.withHistory x).history = x := rfl
@[simp] theorem State.withHistory_pending (x : History) : (s.withHistory x).pending = s.pending := rfl

/-! ### withWaitList -/

@[simp] theorem State.withWaitList_loader (w : List (CtxNum × Nat)) : (s.withWaitList w).loader = s.loader := rfl
@[simp] theorem State.withWaitList_highway (w : List (CtxNum × Nat)) : (s.withWaitList w).highway = s.highway := rfl
@[simp] theorem State.withWaitList_adoption (w : List (CtxNum × Nat)) : (s.withWaitList w).adoption = s.adoption := rfl
@[simp] theorem State.withWaitList_contexts (w : List (CtxNum × Nat)) : (s.withWaitList w).contexts = s.contexts := rfl
@[simp] theorem State.withWaitList_engine (w : List (CtxNum × Nat)) : (s.withWaitList w).engine = s.engine := rfl
@[simp] theorem State.withWaitList_pending (w : List (CtxNum × Nat)) : (s.withWaitList w).pending = s.pending := rfl
@[simp] theorem State.withWaitList_history_cells (w : List (CtxNum × Nat)) : (s.withWaitList w).history.cells = s.history.cells := rfl
@[simp] theorem State.withWaitList_history_freePages (w : List (CtxNum × Nat)) : (s.withWaitList w).history.freePages = s.history.freePages := rfl
@[simp] theorem State.withWaitList_history_waitList (w : List (CtxNum × Nat)) : (s.withWaitList w).history.waitList = w := rfl

/-! ### leaveWaitList -/

@[simp] theorem State.leaveWaitList_loader (i : CtxNum) : (s.leaveWaitList i).loader = s.loader := rfl
@[simp] theorem State.leaveWaitList_highway (i : CtxNum) : (s.leaveWaitList i).highway = s.highway := rfl
@[simp] theorem State.leaveWaitList_adoption (i : CtxNum) : (s.leaveWaitList i).adoption = s.adoption := rfl
@[simp] theorem State.leaveWaitList_contexts (i : CtxNum) : (s.leaveWaitList i).contexts = s.contexts := rfl
@[simp] theorem State.leaveWaitList_engine (i : CtxNum) : (s.leaveWaitList i).engine = s.engine := rfl
@[simp] theorem State.leaveWaitList_pending (i : CtxNum) : (s.leaveWaitList i).pending = s.pending := rfl
@[simp] theorem State.leaveWaitList_history_cells (i : CtxNum) :
    (s.leaveWaitList i).history.cells = s.history.cells := rfl
@[simp] theorem State.leaveWaitList_history_freePages (i : CtxNum) :
    (s.leaveWaitList i).history.freePages = s.history.freePages := rfl
@[simp] theorem State.leaveWaitList_history_waitList (i : CtxNum) :
    (s.leaveWaitList i).history.waitList = s.history.waitList.filter fun e => e.1 != i := rfl

/-! ### endJob -/

@[simp] theorem State.endJob_loader : s.endJob.loader = s.loader := rfl
@[simp] theorem State.endJob_highway : s.endJob.highway = s.highway := rfl
@[simp] theorem State.endJob_adoption : s.endJob.adoption = s.adoption := rfl
@[simp] theorem State.endJob_contexts : s.endJob.contexts = s.contexts := rfl
@[simp] theorem State.endJob_history : s.endJob.history = s.history := rfl
@[simp] theorem State.endJob_pending : s.endJob.pending = s.pending := rfl
@[simp] theorem State.endJob_engine_job : s.endJob.engine.job = none := rfl
@[simp] theorem State.endJob_engine_lastServed : s.endJob.engine.lastServed = s.engine.lastServed := rfl

/-! ### setAnnounced and endBid -/

@[simp] theorem State.setAnnounced_loader (k : Lane) (e : Option (BitVec 4)) : (s.setAnnounced k e).loader = s.loader := rfl
@[simp] theorem State.setAnnounced_highway (k : Lane) (e : Option (BitVec 4)) : (s.setAnnounced k e).highway = s.highway := rfl
@[simp] theorem State.setAnnounced_contexts (k : Lane) (e : Option (BitVec 4)) : (s.setAnnounced k e).contexts = s.contexts := rfl
@[simp] theorem State.setAnnounced_engine (k : Lane) (e : Option (BitVec 4)) : (s.setAnnounced k e).engine = s.engine := rfl
@[simp] theorem State.setAnnounced_history (k : Lane) (e : Option (BitVec 4)) : (s.setAnnounced k e).history = s.history := rfl
@[simp] theorem State.setAnnounced_pending (k : Lane) (e : Option (BitVec 4)) : (s.setAnnounced k e).pending = s.pending := rfl
@[simp] theorem State.endBid_loader : s.endBid.loader = s.loader := rfl
@[simp] theorem State.endBid_highway : s.endBid.highway = s.highway := rfl
@[simp] theorem State.endBid_contexts : s.endBid.contexts = s.contexts := rfl
@[simp] theorem State.endBid_engine : s.endBid.engine = s.engine := rfl
@[simp] theorem State.endBid_history : s.endBid.history = s.history := rfl
@[simp] theorem State.endBid_pending : s.endBid.pending = s.pending := rfl
@[simp] theorem State.setAnnounced_adoption_freeLoad (k : Lane) (e : Option (BitVec 4)) :
    (s.setAnnounced k e).adoption.freeLoad = s.adoption.freeLoad := rfl
@[simp] theorem State.setAnnounced_adoption_stationNumber (k : Lane) (e : Option (BitVec 4)) :
    (s.setAnnounced k e).adoption.stationNumber = s.adoption.stationNumber := rfl
@[simp] theorem State.setAnnounced_adoption_serial (k : Lane) (e : Option (BitVec 4)) :
    (s.setAnnounced k e).adoption.serial = s.adoption.serial := rfl
@[simp] theorem State.setAnnounced_adoption_bid (k : Lane) (e : Option (BitVec 4)) :
    (s.setAnnounced k e).adoption.bid = s.adoption.bid := rfl
@[simp] theorem State.setAnnounced_adoption_confirm (k : Lane) (e : Option (BitVec 4)) :
    (s.setAnnounced k e).adoption.confirm = s.adoption.confirm := rfl
@[simp] theorem State.endBid_adoption_announced : s.endBid.adoption.announced = s.adoption.announced := rfl
@[simp] theorem State.endBid_adoption_freeLoad : s.endBid.adoption.freeLoad = s.adoption.freeLoad := rfl
@[simp] theorem State.endBid_adoption_stationNumber : s.endBid.adoption.stationNumber = s.adoption.stationNumber := rfl
@[simp] theorem State.endBid_adoption_serial : s.endBid.adoption.serial = s.adoption.serial := rfl
@[simp] theorem State.endBid_adoption_confirm : s.endBid.adoption.confirm = s.adoption.confirm := rfl
@[simp] theorem State.endBid_adoption_bid : s.endBid.adoption.bid = none := rfl

/-! ### Reading contexts after an update -/

/-- The context just set. -/
@[simp] theorem State.setContext_self (i : CtxNum) (x : Context) : (s.setContext i x).contexts[i] = x := by
  simp [State.setContext]

/-- Every other context. -/
theorem State.setContext_of_ne {i j : CtxNum} (x : Context) (h : j ≠ i) :
    (s.setContext i x).contexts[j] = s.contexts[j] := by
  have h' : i.val ≠ j.val := fun e => h (Fin.ext e.symm)
  simp [State.setContext, h']

/-- A context after one is set. -/
theorem State.setContext_get (i j : CtxNum) (x : Context) :
    (s.setContext i x).contexts[j] = if j = i then x else s.contexts[j] := by
  by_cases h : j = i
  · subst h; simp
  · rw [State.setContext_of_ne s x h, if_neg h]

end Sys2Proof.Machine
end

