-- ==== Sys2Proof/Laws/Allocator.lean ====
section
/-! SUPPORT. The page allocator: what a grant and a run of the grant rule can do, and that no page is lost or made. -/

namespace Sys2Proof.Machine

/-- What a run of the grant rule may do to one context: nothing, or make a WAITING far section FILLING (R61). -/
def Context.GrantedFrom (before after : Context) : Prop :=
  after = before ∨ ∃ (c : Call) (d : Nat) (pages : List Page), before = .live c ∧ c.far = .waiting d ∧
    after = .live (c.withFar (.filling (.granted d pages)))

/-- All that a run of the grant rule may do, but for the free page list and the wait list. -/
structure State.Allocates (s t : State) : Prop where
  loader : t.loader = s.loader
  highway : t.highway = s.highway
  adoption : t.adoption = s.adoption
  engine : t.engine = s.engine
  pending : t.pending = s.pending
  cells : t.history.cells = s.history.cells
  contexts : ∀ i : CtxNum, Context.GrantedFrom s.contexts[i] t.contexts[i]

theorem Context.GrantedFrom.trans {a b c : Context} (h : Context.GrantedFrom a b) (h' : Context.GrantedFrom b c) :
    Context.GrantedFrom a c := by
  rcases h with rfl | ⟨x, d, ps, rfl, hx, rfl⟩
  · exact h'
  · rcases h' with rfl | ⟨y, e, qs, hy, hw, rfl⟩
    · exact .inr ⟨x, d, ps, rfl, hx, rfl⟩
    · cases hy; cases hw

theorem State.Allocates.refl (s : State) : s.Allocates s := ⟨rfl, rfl, rfl, rfl, rfl, rfl, fun _ => .inl rfl⟩

theorem State.Allocates.trans {s t u : State} (h : s.Allocates t) (h' : t.Allocates u) : s.Allocates u :=
  ⟨h'.loader.trans h.loader, h'.highway.trans h.highway, h'.adoption.trans h.adoption, h'.engine.trans h.engine,
   h'.pending.trans h.pending, h'.cells.trans h.cells, fun i => (h.contexts i).trans (h'.contexts i)⟩

/-- A grant of pages (R61). -/
theorem State.grantPages_allocates (s : State) (i : CtxNum) (need : Nat) : s.Allocates (s.grantPages i need) := by
  unfold State.grantPages
  split
  · rename_i c hc
    split
    · rename_i d hd
      refine ⟨rfl, rfl, rfl, rfl, rfl, rfl, fun j => ?_⟩
      rw [State.withHistory_contexts, State.setContext_get]
      by_cases h : j = i
      · subst h
        rw [if_pos rfl, hc]
        exact .inr ⟨c, d, _, rfl, hd, rfl⟩
      · rw [if_neg h]; exact .inl rfl
    all_goals exact .refl s
  all_goals exact .refl s

theorem State.grantFrom_allocates (w : List (CtxNum × Nat)) (s : State) : s.Allocates (State.grantFrom w s) := by
  induction w generalizing s with
  | nil => exact ⟨rfl, rfl, rfl, rfl, rfl, rfl, fun _ => .inl rfl⟩
  | cons e rest ih =>
    obtain ⟨i, need⟩ := e
    simp only [State.grantFrom]
    split
    · exact (s.grantPages_allocates i need).trans (ih _)
    · exact ⟨rfl, rfl, rfl, rfl, rfl, rfl, fun _ => .inl rfl⟩

/-- A run of the grant rule (R61). -/
theorem State.runGrantRule_allocates (s : State) : s.Allocates s.runGrantRule := State.grantFrom_allocates _ s

/-- A return of pages, with the run of the grant rule that follows (R59). -/
theorem State.returnPages_allocates (s : State) (pages : List Page) : s.Allocates (s.returnPages pages) :=
  State.Allocates.trans (t := s.withHistory { s.history with freePages := s.history.freePages ++ pages })
    ⟨rfl, rfl, rfl, rfl, rfl, rfl, fun _ => .inl rfl⟩ (State.runGrantRule_allocates _)

/-- A context that is not WAITING is left as it is by a run of the grant rule. -/
theorem Context.GrantedFrom.eq_of_not_waiting {a b : Context} (h : Context.GrantedFrom a b)
    (hn : ∀ c, a = .live c → c.far.isWaiting = false) : b = a := by
  rcases h with h | ⟨c, d, ps, rfl, hd, rfl⟩
  · exact h
  · have := hn c rfl
    simp [hd, FarSection.isWaiting] at this

/-! ### Sums over the contexts -/

/-- A sum over the contexts after one is set. -/
theorem State.sum_setContext (s : State) (i : CtxNum) (x : Context) (f : Context → Nat) :
    (∑ j : CtxNum, f (s.setContext i x).contexts[j]) + f s.contexts[i] = (∑ j : CtxNum, f s.contexts[j]) + f x := by
  have e : (fun j : CtxNum => f (s.setContext i x).contexts[j]) =
      Function.update (fun j : CtxNum => f s.contexts[j]) i (f x) := by
    funext j
    rw [State.setContext_get]
    by_cases h : j = i
    · subst h; simp
    · simp [h]
  rw [e, Finset.sum_update_of_mem (Finset.mem_univ i),
    ← Finset.sum_sdiff (Finset.subset_univ {i}) (f := fun j : CtxNum => f s.contexts[j])]
  simp only [Finset.sum_singleton]
  omega

/-! ### Pages (R58) -/

/-- How many times a page stands in the free page list and in the contexts' page lists together. -/
def State.pageCount (s : State) (p : Page) : Nat :=
  s.history.freePages.count p + ∑ i : CtxNum, (s.contexts[i].pages).count p

theorem State.pageCount_setContext (s : State) (i : CtxNum) (x : Context) (p : Page) :
    (s.setContext i x).pageCount p + (s.contexts[i].pages).count p = s.pageCount p + x.pages.count p := by
  have := s.sum_setContext i x fun c => c.pages.count p
  simp only [State.pageCount, State.setContext_history] at this ⊢
  omega

/-- A grant neither loses nor makes a page. -/
theorem State.pageCount_grantPages (s : State) (i : CtxNum) (need : Nat) (p : Page) :
    (s.grantPages i need).pageCount p = s.pageCount p := by
  unfold State.grantPages
  split
  · rename_i c hc
    split
    · rename_i d hd
      have h := s.pageCount_setContext i
        (.live (c.withFar (.filling (.granted d (s.history.freePages.take need))))) p
      rw [hc] at h
      have split : s.history.freePages.count p
          = (s.history.freePages.take need).count p + (s.history.freePages.drop need).count p := by
        rw [← List.count_append, List.take_append_drop]
      simp only [State.pageCount, Context.pages, FarSection.pages, hd, State.setContext_history,
        State.withHistory_history, State.withHistory_contexts, List.count_nil,
        Call.withFar, Ring.granted] at h ⊢
      omega
    all_goals rfl
  all_goals rfl

theorem State.pageCount_grantFrom (w : List (CtxNum × Nat)) (s : State) (p : Page) :
    (State.grantFrom w s).pageCount p = s.pageCount p := by
  induction w generalizing s with
  | nil => rfl
  | cons e rest ih =>
    obtain ⟨i, need⟩ := e
    simp only [State.grantFrom]
    split
    · rw [ih, State.pageCount_grantPages]
    · rfl

theorem State.pageCount_runGrantRule (s : State) (p : Page) : s.runGrantRule.pageCount p = s.pageCount p :=
  State.pageCount_grantFrom _ s p

/-- A return adds the pages returned (R59). -/
theorem State.pageCount_returnPages (s : State) (pages : List Page) (p : Page) :
    (s.returnPages pages).pageCount p = s.pageCount p + pages.count p := by
  rw [State.returnPages, State.pageCount_runGrantRule]
  simp only [State.pageCount, State.withHistory_history, State.withHistory_contexts, List.count_append]
  omega

end Sys2Proof.Machine
end

