-- ==== Sys2Proof/Laws/Conditions.lean ====
section
/-! SUPPORT. Latching: which fields it leaves, what is pending after it, and what it does to the two flags. -/

namespace Sys2Proof.Machine

/-- Noting a new condition changes the two flags alone (R114). -/
theorem Call.noteNewCondition_eq (c : Call) : c.noteNewCondition =
    { c with statusDue := c.noteNewCondition.statusDue, firstReported := c.noteNewCondition.firstReported } := by
  unfold Call.noteNewCondition
  split
  · rfl
  · split <;> rfl
  · rfl

/-- Latching changes the condition set and the two flags alone (R112, R114). -/
theorem Call.latch_eq (c : Call) (x : Condition) : c.latch x =
    { c with conditions := (c.latch x).conditions, statusDue := (c.latch x).statusDue,
             firstReported := (c.latch x).firstReported } := by
  unfold Call.latch
  split
  · rfl
  · rw [Call.noteNewCondition_eq]

/-- Latching several conditions changes the condition set and the two flags alone. -/
theorem Call.latchAll_eq (c : Call) (xs : List Condition) : c.latchAll xs =
    { c with conditions := (c.latchAll xs).conditions, statusDue := (c.latchAll xs).statusDue,
             firstReported := (c.latchAll xs).firstReported } := by
  induction xs generalizing c with
  | nil => rfl
  | cons x rest ih =>
    have e : c.latchAll (x :: rest) = (c.latch x).latchAll rest := rfl
    rw [e, ih (c.latch x)]
    rw [Call.latch_eq c x]

@[simp] theorem Call.latch_lane (c : Call) (x : Condition) : (c.latch x).lane = c.lane := by rw [Call.latch_eq]
@[simp] theorem Call.latch_profile (c : Call) (x : Condition) : (c.latch x).profile = c.profile := by rw [Call.latch_eq]
@[simp] theorem Call.latch_settings (c : Call) (x : Condition) : (c.latch x).settings = c.settings := by rw [Call.latch_eq]
@[simp] theorem Call.latch_inputQueue (c : Call) (x : Condition) : (c.latch x).inputQueue = c.inputQueue := by rw [Call.latch_eq]
@[simp] theorem Call.latch_outputQueue (c : Call) (x : Condition) : (c.latch x).outputQueue = c.outputQueue := by rw [Call.latch_eq]
@[simp] theorem Call.latch_lastSequence (c : Call) (x : Condition) : (c.latch x).lastSequence = c.lastSequence := by rw [Call.latch_eq]
@[simp] theorem Call.latch_stamp (c : Call) (x : Condition) : (c.latch x).stamp = c.stamp := by rw [Call.latch_eq]
@[simp] theorem Call.latch_nearLine (c : Call) (x : Condition) : (c.latch x).nearLine = c.nearLine := by rw [Call.latch_eq]
@[simp] theorem Call.latch_nearTaps (c : Call) (x : Condition) : (c.latch x).nearTaps = c.nearTaps := by rw [Call.latch_eq]
@[simp] theorem Call.latch_far (c : Call) (x : Condition) : (c.latch x).far = c.far := by rw [Call.latch_eq]
@[simp] theorem Call.latch_farTaps (c : Call) (x : Condition) : (c.latch x).farTaps = c.farTaps := by rw [Call.latch_eq]
@[simp] theorem Call.latch_eqLine (c : Call) (x : Condition) : (c.latch x).eqLine = c.eqLine := by rw [Call.latch_eq]
@[simp] theorem Call.latch_eqTaps (c : Call) (x : Condition) : (c.latch x).eqTaps = c.eqTaps := by rw [Call.latch_eq]
@[simp] theorem Call.latch_hold (c : Call) (x : Condition) : (c.latch x).hold = c.hold := by rw [Call.latch_eq]
@[simp] theorem Call.latch_phase (c : Call) (x : Condition) : (c.latch x).phase = c.phase := by rw [Call.latch_eq]
@[simp] theorem Call.latch_count (c : Call) (x : Condition) : (c.latch x).count = c.count := by rw [Call.latch_eq]
@[simp] theorem Call.latch_frozen (c : Call) (x : Condition) : (c.latch x).frozen = c.frozen := by rw [Call.latch_eq]
@[simp] theorem Call.latch_exportRun (c : Call) (x : Condition) : (c.latch x).exportRun = c.exportRun := by rw [Call.latch_eq]
@[simp] theorem Call.latch_signalPower (c : Call) (x : Condition) : (c.latch x).signalPower = c.signalPower := by rw [Call.latch_eq]
@[simp] theorem Call.latch_signalState (c : Call) (x : Condition) : (c.latch x).signalState = c.signalState := by rw [Call.latch_eq]
@[simp] theorem Call.latch_errorPower (c : Call) (x : Condition) : (c.latch x).errorPower = c.errorPower := by rw [Call.latch_eq]
@[simp] theorem Call.latch_errorState (c : Call) (x : Condition) : (c.latch x).errorState = c.errorState := by rw [Call.latch_eq]

@[simp] theorem Call.latchAll_lane (c : Call) (xs : List Condition) : (c.latchAll xs).lane = c.lane := by
  rw [Call.latchAll_eq]
@[simp] theorem Call.latchAll_profile (c : Call) (xs : List Condition) : (c.latchAll xs).profile = c.profile := by
  rw [Call.latchAll_eq]
@[simp] theorem Call.latchAll_settings (c : Call) (xs : List Condition) : (c.latchAll xs).settings = c.settings := by
  rw [Call.latchAll_eq]
@[simp] theorem Call.latchAll_inputQueue (c : Call) (xs : List Condition) : (c.latchAll xs).inputQueue = c.inputQueue := by
  rw [Call.latchAll_eq]
@[simp] theorem Call.latchAll_outputQueue (c : Call) (xs : List Condition) : (c.latchAll xs).outputQueue = c.outputQueue := by
  rw [Call.latchAll_eq]
@[simp] theorem Call.latchAll_lastSequence (c : Call) (xs : List Condition) : (c.latchAll xs).lastSequence = c.lastSequence := by
  rw [Call.latchAll_eq]
@[simp] theorem Call.latchAll_stamp (c : Call) (xs : List Condition) : (c.latchAll xs).stamp = c.stamp := by
  rw [Call.latchAll_eq]
@[simp] theorem Call.latchAll_nearLine (c : Call) (xs : List Condition) : (c.latchAll xs).nearLine = c.nearLine := by
  rw [Call.latchAll_eq]
@[simp] theorem Call.latchAll_nearTaps (c : Call) (xs : List Condition) : (c.latchAll xs).nearTaps = c.nearTaps := by
  rw [Call.latchAll_eq]
@[simp] theorem Call.latchAll_far (c : Call) (xs : List Condition) : (c.latchAll xs).far = c.far := by
  rw [Call.latchAll_eq]
@[simp] theorem Call.latchAll_farTaps (c : Call) (xs : List Condition) : (c.latchAll xs).farTaps = c.farTaps := by
  rw [Call.latchAll_eq]
@[simp] theorem Call.latchAll_eqLine (c : Call) (xs : List Condition) : (c.latchAll xs).eqLine = c.eqLine := by
  rw [Call.latchAll_eq]
@[simp] theorem Call.latchAll_eqTaps (c : Call) (xs : List Condition) : (c.latchAll xs).eqTaps = c.eqTaps := by
  rw [Call.latchAll_eq]
@[simp] theorem Call.latchAll_hold (c : Call) (xs : List Condition) : (c.latchAll xs).hold = c.hold := by
  rw [Call.latchAll_eq]
@[simp] theorem Call.latchAll_phase (c : Call) (xs : List Condition) : (c.latchAll xs).phase = c.phase := by
  rw [Call.latchAll_eq]
@[simp] theorem Call.latchAll_count (c : Call) (xs : List Condition) : (c.latchAll xs).count = c.count := by
  rw [Call.latchAll_eq]
@[simp] theorem Call.latchAll_frozen (c : Call) (xs : List Condition) : (c.latchAll xs).frozen = c.frozen := by
  rw [Call.latchAll_eq]
@[simp] theorem Call.latchAll_exportRun (c : Call) (xs : List Condition) : (c.latchAll xs).exportRun = c.exportRun := by
  rw [Call.latchAll_eq]
@[simp] theorem Call.latchAll_signalPower (c : Call) (xs : List Condition) : (c.latchAll xs).signalPower = c.signalPower := by
  rw [Call.latchAll_eq]
@[simp] theorem Call.latchAll_signalState (c : Call) (xs : List Condition) : (c.latchAll xs).signalState = c.signalState := by
  rw [Call.latchAll_eq]
@[simp] theorem Call.latchAll_errorPower (c : Call) (xs : List Condition) : (c.latchAll xs).errorPower = c.errorPower := by
  rw [Call.latchAll_eq]
@[simp] theorem Call.latchAll_errorState (c : Call) (xs : List Condition) : (c.latchAll xs).errorState = c.errorState := by
  rw [Call.latchAll_eq]

/-- The condition set after latching: the condition's bit is set and no other changes (R112). -/
@[simp] theorem Call.latch_conditions (c : Call) (x : Condition) : (c.latch x).conditions = c.conditions ||| x.bit := by
  have note : ∀ d : Call, d.noteNewCondition.conditions = d.conditions := fun d => by rw [Call.noteNewCondition_eq]
  unfold Call.latch
  split
  · rename_i h
    apply BitVec.eq_of_getLsbD_eq
    intro n hn
    simp only [Call.isPending] at h
    simp only [BitVec.getLsbD_or, Condition.bit, BitVec.getLsbD_twoPow]
    by_cases e : x.code - 1 = n
    · subst e; simp [h]
    · simp [e]
  · rw [note]

/-- Codes tell conditions apart. -/
theorem Condition.code_injective {x y : Condition} (h : x.code = y.code) : x = y := by
  cases x <;> cases y <;> simp_all [Condition.code]

/-- Codes run from 1 to 19. -/
theorem Condition.code_range (x : Condition) : 1 ≤ x.code ∧ x.code ≤ 19 := by cases x <;> decide

/-- What is pending after latching: the condition, and what was pending before. -/
theorem Call.isPending_latch (c : Call) (x y : Condition) :
    (c.latch x).isPending y = (c.isPending y || decide (x = y)) := by
  have hx := x.code_range
  have hy := y.code_range
  simp only [Call.isPending, Call.latch_conditions, BitVec.getLsbD_or, Condition.bit, BitVec.getLsbD_twoPow]
  congr 1
  by_cases e : x = y
  · subst e; simp; omega
  · have : x.code - 1 ≠ y.code - 1 := fun h => e (Condition.code_injective (by omega))
    simp [e, this]

/-- What is pending after latching several. -/
theorem Call.isPending_latchAll (c : Call) (xs : List Condition) (y : Condition) :
    (c.latchAll xs).isPending y = (c.isPending y || decide (y ∈ xs)) := by
  induction xs generalizing c with
  | nil => simp [Call.latchAll]
  | cons x rest ih =>
    have e : c.latchAll (x :: rest) = (c.latch x).latchAll rest := rfl
    rw [e, ih, Call.isPending_latch, Bool.or_assoc]
    congr 1
    by_cases h : x = y
    · subst h; simp
    · simp [h, Ne.symm h]

end Sys2Proof.Machine
end

