-- ==== Sys2Proof/Laws/Engine.lean ====
section
/-! SUPPORT. The engine's choice, the owner of a lane, and the candidates: what each can answer. -/

namespace Sys2Proof.Machine

/-- The owner of a lane is a LIVE context on it (R4). -/
theorem State.owner_eq_some {s : State} {lane : Lane} {i : CtxNum} {c : Call} (h : s.owner lane = some (i, c)) :
    s.contexts[i] = .live c ∧ c.lane = lane := by
  obtain ⟨j, -, hj⟩ := List.exists_of_findSome?_eq_some h
  rw [Option.map_eq_some_iff] at hj
  obtain ⟨d, hd, e⟩ := hj
  obtain ⟨rfl, rfl⟩ := Prod.mk.inj e
  cases hc : s.contexts[j] with
  | free => rw [hc] at hd; simp [Context.callOnLane] at hd
  | releasing x => rw [hc] at hd; simp [Context.callOnLane] at hd
  | live x =>
    rw [hc] at hd
    simp only [Context.callOnLane] at hd
    split at hd
    · simp only [Option.some.injEq] at hd; subst hd; exact ⟨rfl, ‹_›⟩
    · cases hd

/-- A lane without an owner has no LIVE context on it. -/
theorem State.owner_eq_none {s : State} {lane : Lane} :
    s.owner lane = none ↔ ∀ (i : CtxNum) (c : Call), s.contexts[i] = .live c → c.lane ≠ lane := by
  rw [State.owner, List.findSome?_eq_none_iff]
  refine ⟨fun h i c hc e => ?_, fun h i _ => ?_⟩
  · have := h i (List.mem_finRange i)
    rw [hc] at this
    simp [Context.callOnLane, e] at this
  · cases hc : s.contexts[i] with
    | live c => simp [Context.callOnLane, h i c hc]
    | _ => simp [Context.callOnLane]

/-- A LIVE context on a lane that no other LIVE context holds is its owner. -/
theorem State.owner_of_live {s : State} {i : CtxNum} {c : Call} (h : s.contexts[i] = .live c)
    (unique : ∀ (j : CtxNum) (d : Call), s.contexts[j] = .live d → d.lane = c.lane → j = i) :
    s.owner c.lane = some (i, c) := by
  cases e : s.owner c.lane with
  | none => exact absurd rfl (State.owner_eq_none.1 e i c h)
  | some x =>
    obtain ⟨j, d⟩ := x
    obtain ⟨hj, hl⟩ := State.owner_eq_some e
    obtain rfl := unique j d hj hl
    rw [h] at hj
    cases hj
    rfl

/-- A candidate is a LIVE context with an entry at the head of its input queue (R22). -/
theorem State.candidate_eq_some {s : State} {lane : Lane} {i : CtxNum} {d : Call} {e : Entry}
    (h : s.candidate lane = some (i, d, e)) :
    ∃ c rest, s.owner lane = some (i, c) ∧ c.inputQueue = e :: rest ∧ d = { c with inputQueue := rest } := by
  unfold State.candidate at h
  split at h
  · rename_i j c hj
    split at h
    · rename_i x rest hq
      simp only [Option.some.injEq, Prod.mk.injEq] at h
      obtain ⟨rfl, rfl, rfl⟩ := h
      exact ⟨c, rest, hj, hq, rfl⟩
    · cases h
  · cases h

/-- Every lane stands in the order in which the engine examines the lanes (R23). -/
theorem mem_laneOrder (last k : Lane) : k ∈ laneOrder last := by
  simp only [laneOrder, List.mem_map]
  exact ⟨k - (last + 1), List.mem_finRange _, add_sub_cancel _ _⟩

/-- All that the engine's choice can do: nothing while it has a job or has no candidate; otherwise it takes the head
entry of a candidate (R22). -/
theorem State.takeNext_cases (s : State) :
    (s.engine.job.isSome = true ∧ s.takeNext = s) ∨
    (s.engine.job = none ∧ (∀ k : Lane, s.candidate k = none) ∧ s.takeNext = s) ∨
    (s.engine.job = none ∧ ∃ i c e rest, s.owner c.lane = some (i, c) ∧ s.contexts[i] = .live c ∧
      c.inputQueue = e :: rest ∧
      s.takeNext = (s.setContext i (.live { c with inputQueue := rest })).withEngine
        { job := some { context := i, entry := e }, lastServed := c.lane }) := by
  unfold State.takeNext
  split
  · rename_i j hj; exact .inl ⟨by simp [hj], rfl⟩
  · rename_i hj
    split
    · rename_i i d e hf
      obtain ⟨k, -, hk⟩ := List.exists_of_findSome?_eq_some hf
      obtain ⟨c, rest, ho, hq, rfl⟩ := State.candidate_eq_some hk
      obtain ⟨hc, rfl⟩ := State.owner_eq_some ho
      exact .inr (.inr ⟨hj, i, c, e, rest, ho, hc, hq, rfl⟩)
    · rename_i hf
      refine .inr (.inl ⟨hj, fun k => ?_, rfl⟩)
      exact List.findSome?_eq_none_iff.1 hf k (mem_laneOrder _ k)

@[simp] theorem State.takeNext_loader (s : State) : s.takeNext.loader = s.loader := by
  rcases s.takeNext_cases with ⟨-, h⟩ | ⟨-, -, h⟩ | ⟨-, i, c, e, rest, -, -, -, h⟩ <;> simp [h]
@[simp] theorem State.takeNext_highway (s : State) : s.takeNext.highway = s.highway := by
  rcases s.takeNext_cases with ⟨-, h⟩ | ⟨-, -, h⟩ | ⟨-, i, c, e, rest, -, -, -, h⟩ <;> simp [h]
@[simp] theorem State.takeNext_adoption (s : State) : s.takeNext.adoption = s.adoption := by
  rcases s.takeNext_cases with ⟨-, h⟩ | ⟨-, -, h⟩ | ⟨-, i, c, e, rest, -, -, -, h⟩ <;> simp [h]
@[simp] theorem State.takeNext_history (s : State) : s.takeNext.history = s.history := by
  rcases s.takeNext_cases with ⟨-, h⟩ | ⟨-, -, h⟩ | ⟨-, i, c, e, rest, -, -, -, h⟩ <;> simp [h]
@[simp] theorem State.takeNext_pending (s : State) : s.takeNext.pending = s.pending := by
  rcases s.takeNext_cases with ⟨-, h⟩ | ⟨-, -, h⟩ | ⟨-, i, c, e, rest, -, -, -, h⟩ <;> simp [h]

/-- What the engine's choice leaves in a context: itself, or itself less the head entry of its input queue. -/
theorem State.takeNext_contexts (s : State) (j : CtxNum) :
    s.takeNext.contexts[j] = s.contexts[j] ∨
    ∃ c e rest, s.contexts[j] = .live c ∧ c.inputQueue = e :: rest ∧
      s.takeNext.contexts[j] = .live { c with inputQueue := rest } := by
  rcases s.takeNext_cases with ⟨-, h⟩ | ⟨-, -, h⟩ | ⟨-, i, c, e, rest, -, hc, hq, h⟩
  · exact .inl (by rw [h])
  · exact .inl (by rw [h])
  · rw [h, State.withEngine_contexts, State.setContext_get]
    by_cases hj : j = i
    · subst hj; exact .inr ⟨c, e, rest, hc, hq, by rw [if_pos rfl]⟩
    · exact .inl (by rw [if_neg hj])

/-- After the engine's choice, an idle engine has no candidate. -/
theorem State.takeNext_idle (s : State) (h : s.takeNext.engine.job = none) :
    s.takeNext = s ∧ ∀ k : Lane, s.candidate k = none := by
  rcases s.takeNext_cases with ⟨hj, e⟩ | ⟨-, hn, e⟩ | ⟨-, i, c, x, rest, -, -, -, e⟩
  · rw [e] at h; simp [h] at hj
  · exact ⟨e, hn⟩
  · rw [e] at h; cases h

end Sys2Proof.Machine
end

