-- ==== Sys2Proof/Laws/Release.lean ====
section
/-! SUPPORT. Leaving LIVE, becoming FREE, completing and adopting: what each can do to a context. -/

namespace Sys2Proof.Machine

/-- Leaving LIVE makes a LIVE context RELEASING, withdrawn, and changes no other (R7). -/
theorem State.leaveLive_contexts (s : State) (i j : CtxNum) :
    (s.leaveLive i).contexts[j] = s.contexts[j] ∨
    ∃ c, j = i ∧ s.contexts[j] = .live c ∧ (s.leaveLive i).contexts[j] = .releasing c.withdraw := by
  unfold State.leaveLive
  split
  · rename_i c hc
    rw [State.leaveWaitList_contexts, State.setContext_get]
    by_cases h : j = i
    · subst h; exact .inr ⟨c, rfl, hc, by rw [if_pos rfl]⟩
    · exact .inl (by rw [if_neg h])
  all_goals exact .inl rfl

@[simp] theorem State.leaveLive_loader (s : State) (i : CtxNum) : (s.leaveLive i).loader = s.loader := by
  unfold State.leaveLive; split <;> rfl
@[simp] theorem State.leaveLive_highway (s : State) (i : CtxNum) : (s.leaveLive i).highway = s.highway := by
  unfold State.leaveLive; split <;> rfl
@[simp] theorem State.leaveLive_adoption (s : State) (i : CtxNum) : (s.leaveLive i).adoption = s.adoption := by
  unfold State.leaveLive; split <;> rfl
@[simp] theorem State.leaveLive_engine (s : State) (i : CtxNum) : (s.leaveLive i).engine = s.engine := by
  unfold State.leaveLive; split <;> rfl
@[simp] theorem State.leaveLive_pending (s : State) (i : CtxNum) : (s.leaveLive i).pending = s.pending := by
  unfold State.leaveLive; split <;> rfl
@[simp] theorem State.leaveLive_cells (s : State) (i : CtxNum) :
    (s.leaveLive i).history.cells = s.history.cells := by
  unfold State.leaveLive; split <;> rfl
@[simp] theorem State.leaveLive_freePages (s : State) (i : CtxNum) :
    (s.leaveLive i).history.freePages = s.history.freePages := by
  unfold State.leaveLive; split <;> rfl

/-- Becoming FREE: a RELEASING context becomes FREE with its load and pages returned; any other is left (R8). -/
theorem State.becomeFree_cases (s : State) (i : CtxNum) :
    (∃ c, s.contexts[i] = .releasing c ∧ s.becomeFree i = ((s.setContext i .free).withAdoption
      { s.adoption with freeLoad := s.adoption.freeLoad + c.settings.load }).returnPages c.far.pages) ∨
    ((∀ c, s.contexts[i] ≠ .releasing c) ∧ s.becomeFree i = s) := by
  unfold State.becomeFree
  cases h : s.contexts[i] with
  | releasing c => exact .inl ⟨c, rfl, rfl⟩
  | free => exact .inr ⟨fun c => by simp, rfl⟩
  | live c => exact .inr ⟨fun c => by simp, rfl⟩

/-- What becoming FREE may do to a context: free it if it is the one and RELEASING, or grant it pages. -/
theorem State.becomeFree_contexts (s : State) (i j : CtxNum) :
    Context.GrantedFrom s.contexts[j] (s.becomeFree i).contexts[j] ∨
    (j = i ∧ (∃ c, s.contexts[j] = .releasing c) ∧ (s.becomeFree i).contexts[j] = .free) := by
  rcases s.becomeFree_cases i with ⟨c, hc, e⟩ | ⟨-, e⟩
  · rw [e]
    have g := (State.returnPages_allocates ((s.setContext i .free).withAdoption
      { s.adoption with freeLoad := s.adoption.freeLoad + c.settings.load }) c.far.pages).contexts j
    rw [State.withAdoption_contexts, State.setContext_get] at g
    by_cases h : j = i
    · subst h
      rw [if_pos rfl] at g
      exact .inr ⟨rfl, ⟨c, hc⟩, g.eq_of_not_waiting (by simp)⟩
    · rw [if_neg h] at g; exact .inl g
  · rw [e]; exact .inl (.inl rfl)

theorem State.becomeFree_fields (s : State) (i : CtxNum) :
    (s.becomeFree i).loader = s.loader ∧ (s.becomeFree i).highway = s.highway ∧
    (s.becomeFree i).engine = s.engine ∧ (s.becomeFree i).pending = s.pending ∧
    (s.becomeFree i).history.cells = s.history.cells := by
  rcases s.becomeFree_cases i with ⟨c, -, e⟩ | ⟨-, e⟩
  · rw [e]
    have g := State.returnPages_allocates ((s.setContext i .free).withAdoption
      { s.adoption with freeLoad := s.adoption.freeLoad + c.settings.load }) c.far.pages
    exact ⟨g.loader, g.highway, g.engine, g.pending, g.cells⟩
  · rw [e]; exact ⟨rfl, rfl, rfl, rfl, rfl⟩

@[simp] theorem State.becomeFree_loader (s : State) (i : CtxNum) : (s.becomeFree i).loader = s.loader :=
  (s.becomeFree_fields i).1
@[simp] theorem State.becomeFree_highway (s : State) (i : CtxNum) : (s.becomeFree i).highway = s.highway :=
  (s.becomeFree_fields i).2.1
@[simp] theorem State.becomeFree_engine (s : State) (i : CtxNum) : (s.becomeFree i).engine = s.engine :=
  (s.becomeFree_fields i).2.2.1
@[simp] theorem State.becomeFree_pending (s : State) (i : CtxNum) : (s.becomeFree i).pending = s.pending :=
  (s.becomeFree_fields i).2.2.2.1
@[simp] theorem State.becomeFree_cells (s : State) (i : CtxNum) : (s.becomeFree i).history.cells = s.history.cells :=
  (s.becomeFree_fields i).2.2.2.2

/-- The completion of an entry: the outcome for a LIVE context, the discard for a RELEASING one, and then the engine's
choice (R22, R9). -/
theorem State.completeFor_cases (s : State) (i : CtxNum) (outcome : Call → State → State) :
    (∃ c, s.contexts[i] = .live c ∧ s.completeFor i outcome = (outcome c s.endJob).takeNext) ∨
    (∃ c, s.contexts[i] = .releasing c ∧ s.completeFor i outcome = (s.endJob.becomeFree i).takeNext) ∨
    (s.contexts[i] = .free ∧ s.completeFor i outcome = s.endJob.takeNext) := by
  unfold State.completeFor
  cases h : s.contexts[i] with
  | live c => exact .inl ⟨c, rfl, rfl⟩
  | releasing c => exact .inr (.inl ⟨c, rfl, rfl⟩)
  | free => exact .inr (.inr ⟨rfl, rfl⟩)

/-- The completion of a CONTROL entry: the completion of the engine's entry when that is a CONTROL of the kind, and
nothing otherwise. -/
theorem State.completeControl_cases (s : State) (isKind : BitVec 4 → Bool)
    (effect : CtxNum → Vector Byte 17 → Call → State → State) :
    (∃ i e, s.engine.job = some { context := i, entry := .control e } ∧ isKind e.kind = true ∧
      s.completeControl isKind effect = s.completeFor i (effect i e.bytes)) ∨
    s.completeControl isKind effect = s := by
  unfold State.completeControl
  split
  · rename_i i e hj
    split
    · exact .inl ⟨i, e, hj, ‹_›, rfl⟩
    · exact .inr rfl
  all_goals exact .inr rfl

/-- A FREE context that the station finds is FREE (R5). -/
theorem State.lowestFree_eq_some {s : State} {i : CtxNum} (h : s.lowestFree = some i) : s.contexts[i] = .free := by
  have := List.find?_some h
  cases hc : s.contexts[i] with
  | free => rfl
  | live c => simp [hc, Context.isFree] at this
  | releasing c => simp [hc, Context.isFree] at this

/-- Adoption makes the lowest-numbered FREE context LIVE as adopted, and lowers the free load (R5). -/
theorem State.adopt_cases (s : State) (lane : Lane) (n : Fin 16) (p : Profile) :
    (∃ i, s.lowestFree = some i ∧ s.contexts[i] = .free ∧ s.adopt lane n p =
      (s.setContext i (.live (adoptedCall lane n p))).withAdoption
        { s.adoption with freeLoad := s.adoption.freeLoad - p.load }) ∨
    (s.lowestFree = none ∧ s.adopt lane n p = s) := by
  unfold State.adopt
  cases h : s.lowestFree with
  | some i => exact .inl ⟨i, rfl, State.lowestFree_eq_some h, rfl⟩
  | none => exact .inr ⟨rfl, rfl⟩

/-- What the end of a bid can do: nothing, or adopt with the confirm driven and the entry of the lane cleared (R150). -/
theorem State.winRound_cases (s : State) (b : Bid) :
    (∃ p, s.loader.profiles[b.profile] = some p ∧ s.winRound b = (s.adopt b.lane b.profile p).withAdoption
      { (s.adopt b.lane b.profile p).adoption with
        confirm := some (confirmField s.adoption.stationNumber)
        announced := (s.adopt b.lane b.profile p).adoption.announced.set b.lane none }) ∨
    (s.loader.profiles[b.profile] = none ∧ s.winRound b = s) := by
  unfold State.winRound
  cases h : s.loader.profiles[b.profile] with
  | some p => exact .inl ⟨p, rfl, rfl⟩
  | none => exact .inr ⟨rfl, rfl⟩

end Sys2Proof.Machine
end

