-- ==== Sys2Proof/Laws/Contexts.lean ====
section
/-! SUPPORT. What one step can do to a context, said once: a property of contexts that the elementary changes keep is
kept by every step. -/

namespace Sys2Proof.Machine

/-- A property of one context that every elementary change keeps, but for adoption and the completion of a SAMPLE entry,
which depend on the station's tables. -/
structure ContextClosed (Q : Context → Prop) : Prop where
  free : Q .free
  withdrawn : ∀ c, Q (.live c) → Q (.releasing c.withdraw)
  granted : ∀ (c : Call) (d : Nat) (pages : List Page), Q (.live c) → c.far = .waiting d →
    Q (.live (c.withFar (.filling (.granted d pages))))
  taken : ∀ (c : Call) (e : Entry) (rest : List Entry), Q (.live c) → c.inputQueue = e :: rest →
    Q (.live { c with inputQueue := rest })
  enqueued : ∀ (c : Call) (e : Entry), Q (.live c) → c.inputQueue.length < Config.inputCapacity → Q (.live (c.enqueue e))
  latched : ∀ (c : Call) (x : Condition), Q (.live c) → Q (.live (c.latch x))
  upstream : ∀ c, Q (.live c) → Q (.live c.upstreamChoice.2)
  frozen : ∀ (c : Call) (b : Bool), Q (.live c) → Q (.live { c with frozen := b })
  retrained : ∀ (c : Call) (x y : Bool), Q (.live c) → Q (.live (c.retrain x y))
  cleared : ∀ (c : Call) (mask : BitVec 19), Q (.live c) → Q (.live (c.clear mask))
  exported : ∀ (c : Call) (part : Option TapSection) (first count : Nat) (consistent : Bool), Q (.live c) →
    Q (.live (c.abortExport.startExport part first count consistent))
  imported : ∀ (c : Call) (part : TapSection) (m : Nat) (t u : Tap), Q (.live c) → Q (.live (c.importTaps part m t u))
  delayed : ∀ (c : Call) (f : FarSection), Q (.live c) → Q (.live (c.zeroFarTaps.withFar f))
  turnedOff : ∀ c, Q (.live c) → Q (.live (c.withFar .unset))

/-- Every context of the station has the property. -/
def State.AllContexts (Q : Context → Prop) (s : State) : Prop := ∀ i : CtxNum, Q s.contexts[i]

/-- A call adopted under a profile of the station's table has the property. -/
def State.AdoptsInto (Q : Context → Prop) (s : State) : Prop :=
  ∀ (lane : Lane) (n : Fin 16) (p : Profile), s.loader.profiles[n] = some p → Q (.live (adoptedCall lane n p))

/-- The completion of a SAMPLE entry under the current phase keeps the property. -/
def State.SamplesInto (Q : Context → Prop) (s : State) : Prop :=
  ∀ (i : CtxNum) (e : SampleEntry) (c : Call) (ph : Phase) (n : Nat), s.contexts[i] = .live c →
    s.currentPhase c = some (ph, n) → Q (.live c) → Q (.live (sampleStages ph n e c s.history.cells).complete)

section

variable {Q : Context → Prop} {s t : State}

theorem State.AllContexts.congr (h : s.AllContexts Q) (e : t.contexts = s.contexts) : t.AllContexts Q :=
  fun i => by rw [e]; exact h i

theorem State.AllContexts.set (h : s.AllContexts Q) (i : CtxNum) {x : Context} (hx : Q x) :
    (s.setContext i x).AllContexts Q := fun j => by
  rw [State.setContext_get]
  split
  · exact hx
  · exact h j

theorem State.AllContexts.allocates (closed : ContextClosed Q) (h : s.AllContexts Q) (a : s.Allocates t) :
    t.AllContexts Q := fun i => by
  rcases a.contexts i with e | ⟨c, d, pages, hc, hd, e⟩
  · rw [e]; exact h i
  · rw [e]; exact closed.granted c d pages (hc ▸ h i) hd

theorem State.AllContexts.takeNext (closed : ContextClosed Q) (h : s.AllContexts Q) : s.takeNext.AllContexts Q :=
  fun i => by
    rcases s.takeNext_contexts i with e | ⟨c, x, rest, hc, hq, e⟩
    · rw [e]; exact h i
    · rw [e]; exact closed.taken c x rest (hc ▸ h i) hq

theorem State.AllContexts.leaveLive (closed : ContextClosed Q) (h : s.AllContexts Q) (i : CtxNum) :
    (s.leaveLive i).AllContexts Q := fun j => by
  rcases s.leaveLive_contexts i j with e | ⟨c, -, hc, e⟩
  · rw [e]; exact h j
  · rw [e]; exact closed.withdrawn c (hc ▸ h j)

theorem State.AllContexts.becomeFree (closed : ContextClosed Q) (h : s.AllContexts Q) (i : CtxNum) :
    (s.becomeFree i).AllContexts Q := fun j => by
  rcases s.becomeFree_contexts i j with g | ⟨-, -, e⟩
  · rcases g with e | ⟨c, d, pages, hc, hd, e⟩
    · rw [e]; exact h j
    · rw [e]; exact closed.granted c d pages (hc ▸ h j) hd
  · rw [e]; exact closed.free

theorem State.AllContexts.letGo (closed : ContextClosed Q) (h : s.AllContexts Q) (i : CtxNum) :
    (s.letGo i).AllContexts Q := by
  unfold State.letGo
  split
  · exact h
  · exact h.becomeFree closed i

theorem State.AllContexts.releaseOwner (closed : ContextClosed Q) (h : s.AllContexts Q) (lane : Lane) :
    (s.releaseOwner lane).AllContexts Q := by
  unfold State.releaseOwner
  split
  · unfold State.releaseContext
    split
    · refine State.AllContexts.letGo closed ?_ _
      split
      · exact (h.leaveLive closed _).allocates closed (State.runGrantRule_allocates _)
      · exact h.leaveLive closed _
    all_goals exact h
  · exact h

theorem State.AllContexts.leaveLiveEach (closed : ContextClosed Q) (l : List CtxNum) (h : s.AllContexts Q) :
    (State.leaveLiveEach l s).AllContexts Q := by
  induction l generalizing s with
  | nil => exact h
  | cons i rest ih => exact ih (h.leaveLive closed i)

theorem State.AllContexts.letGoEach (closed : ContextClosed Q) (l : List CtxNum) (h : s.AllContexts Q) :
    (State.letGoEach l s).AllContexts Q := by
  induction l generalizing s with
  | nil => exact h
  | cons i rest ih => exact ih (h.letGo closed i)

theorem State.AllContexts.requestPages (closed : ContextClosed Q) (h : s.AllContexts Q) {i : CtxNum} {c d : Call}
    (hd : Q (.live d)) (e : ∀ f, c.withFar f = d.zeroFarTaps.withFar f) (delay need : Nat) :
    (s.requestPages i c delay need).AllContexts Q := by
  unfold State.requestPages
  split
  · exact (h.set i (by rw [e]; exact closed.delayed _ _ hd)).congr rfl
  · exact (h.set i (closed.latched _ _ (by rw [e]; exact closed.delayed _ _ hd))).congr rfl

theorem State.AllContexts.returnPages (closed : ContextClosed Q) (h : s.AllContexts Q) (pages : List Page) :
    (s.returnPages pages).AllContexts Q := h.allocates closed (State.returnPages_allocates s pages)

theorem State.AllContexts.runGrantRule (closed : ContextClosed Q) (h : s.AllContexts Q) : s.runGrantRule.AllContexts Q :=
  h.allocates closed (State.runGrantRule_allocates s)

theorem State.AllContexts.farDelay (closed : ContextClosed Q) (h : s.AllContexts Q) {i : CtxNum} {c : Call}
    (hc : Q (.live c)) (b : Vector Byte 17) : (State.farDelayOutcome i b c s).AllContexts Q := by
  unfold State.farDelayOutcome
  have set : ∀ f, (s.setContext i (.live (c.zeroFarTaps.withFar f))).AllContexts Q := fun f =>
    h.set i (closed.delayed c f hc)
  split
  · unfold State.takeFarDelay
    split
    · exact h
    · exact h.requestPages closed hc (fun _ => rfl) _ _
    · exact (((set .unset).congr (State.leaveWaitList_contexts _ i)).runGrantRule closed).requestPages closed hc
        (fun _ => rfl) _ _
    · split
      · split
        · exact h.set i (closed.latched _ _ (closed.delayed _ _ hc))
        · exact set _
      · exact ((set .unset).returnPages closed _).requestPages closed hc (fun _ => rfl) _ _
    · split
      · exact set _
      · exact ((set .unset).returnPages closed _).requestPages closed hc (fun _ => rfl) _ _
  · exact h.set i (closed.latched _ _ hc)

theorem State.AllContexts.farOff (closed : ContextClosed Q) (h : s.AllContexts Q) {i : CtxNum} {c : Call}
    (hc : Q (.live c)) (b : Vector Byte 17) : (State.farOffOutcome i b c s).AllContexts Q := by
  unfold State.farOffOutcome
  have off := h.set i (closed.turnedOff c hc)
  split
  · exact h
  · exact h
  · exact (off.congr (State.leaveWaitList_contexts _ i)).runGrantRule closed
  · exact off.returnPages closed _
  · exact off.returnPages closed _

/-- A completion, whose outcome for a LIVE context keeps the property. -/
theorem State.AllContexts.completeFor (closed : ContextClosed Q) (h : s.AllContexts Q) (i : CtxNum)
    {outcome : Call → State → State}
    (ho : ∀ c, s.contexts[i] = .live c → Q (.live c) → (outcome c s.endJob).AllContexts Q) :
    (s.completeFor i outcome).AllContexts Q := by
  have ended : s.endJob.AllContexts Q := h.congr rfl
  rcases s.completeFor_cases i outcome with ⟨c, hc, e⟩ | ⟨c, -, e⟩ | ⟨-, e⟩
  · rw [e]; exact (ho c hc (hc ▸ h i)).takeNext closed
  · rw [e]; exact (ended.becomeFree closed i).takeNext closed
  · rw [e]; exact ended.takeNext closed

theorem State.AllContexts.completeControl (closed : ContextClosed Q) (h : s.AllContexts Q) {isKind : BitVec 4 → Bool}
    {effect : CtxNum → Vector Byte 17 → Call → State → State}
    (ho : ∀ i b c, Q (.live c) → (effect i b c s.endJob).AllContexts Q) :
    (s.completeControl isKind effect).AllContexts Q := by
  rcases s.completeControl_cases isKind effect with ⟨i, e, -, -, h'⟩ | h'
  · rw [h']; exact h.completeFor closed i fun c _ hc => ho i e.bytes c hc
  · rw [h']; exact h

theorem State.AllContexts.winRound (adopts : s.AdoptsInto Q) (h : s.AllContexts Q) (b : Bid) :
    (s.winRound b).AllContexts Q := by
  rcases s.winRound_cases b with ⟨p, hp, e⟩ | ⟨-, e⟩
  · rw [e]
    rcases s.adopt_cases b.lane b.profile p with ⟨i, -, -, e'⟩ | ⟨-, e'⟩
    · exact (h.set i (adopts b.lane b.profile p hp)).congr (by rw [e']; rfl)
    · exact h.congr (by rw [e']; rfl)
  · rw [e]; exact h

theorem State.AllContexts.arrive (closed : ContextClosed Q) (h : s.AllContexts Q) {i : CtxNum} {c : Call}
    (hc : Q (.live c)) (e : Entry) : (s.arrive i c e).AllContexts Q := by
  unfold State.arrive
  split
  · exact (h.set i (closed.enqueued c e hc ‹_›)).takeNext closed
  · exact h.set i (closed.latched c _ hc)

theorem State.endLoad_contexts (s : State) (p : Vector (Option Profile) 16) (q : Vector (Option (List Phase)) 8) :
    (s.endLoad p q).contexts = s.contexts := by
  unfold State.endLoad; split <;> rfl

theorem State.AllContexts.loseHighway (closed : ContextClosed Q) (h : s.AllContexts Q) : s.loseHighway.AllContexts Q :=
  State.AllContexts.congr ((h.leaveLiveEach closed (List.finRange 24)).letGoEach closed (List.finRange 24))
    (by simp only [State.loseHighway, State.withLoader_contexts, State.withHighway_contexts,
      State.withAdoption_contexts])

/-- A property that the elementary changes keep is kept by every command. -/
theorem State.AllContexts.exec (closed : ContextClosed Q) (adopts : s.AdoptsInto Q) (samples : s.SamplesInto Q)
    (h : s.AllContexts Q) (c : Instr) (e : Machine.exec c s = .next t) : t.AllContexts Q := by
  have same : ∀ {u : State}, (.next u : Host.Outcome State Fault Refusal) = .next t → u.contexts = s.contexts →
      t.AllContexts Q := fun e' hu => by cases e'; exact h.congr hu
  have owned : ∀ {lane i x}, s.owner lane = some (i, x) → Q (.live x) := fun ho =>
    (State.owner_eq_some ho).1 ▸ h _
  have ended : s.endJob.AllContexts Q := h.congr rfl
  cases c with
  | resetPinAsserted =>
    cases e
    intro i
    simp only [State.underReset, Fin.getElem_fin, Vector.getElem_replicate]
    exact closed.free
  | resetPinReleased b p =>
    simp only [Machine.exec, execResetPinReleased] at e
    split at e
    · split at e
      · exact same e rfl
      · exact same e rfl
    · exact same e rfl
  | signatureBlockRead b =>
    simp only [Machine.exec, execSignatureBlockRead] at e
    split at e
    · split at e
      · exact same e rfl
      · exact same e (State.endLoad_contexts _ _ _)
    all_goals exact same e rfl
  | headersRead b =>
    simp only [Machine.exec, execHeadersRead] at e
    split at e
    · split at e
      · split at e
        · split at e
          · exact same e rfl
          · exact same e (State.endLoad_contexts _ _ _)
        · exact same e (State.endLoad_contexts _ _ _)
      · exact same e rfl
    all_goals exact same e rfl
  | scheduleTableRead b =>
    simp only [Machine.exec, execScheduleTableRead] at e
    split at e
    · split at e
      · exact same e rfl
      · exact same e rfl
    all_goals exact same e rfl
  | profileTableRead b =>
    simp only [Machine.exec, execProfileTableRead] at e
    split at e
    · split at e
      · exact same e (State.endLoad_contexts _ _ _)
      · exact same e rfl
    all_goals exact same e rfl
  | frameMark n =>
    simp only [Machine.exec, execFrameMark] at e
    split at e
    · split at e
      · exact same e rfl
      · exact same e rfl
    all_goals exact same e rfl
  | missingFrameMark =>
    simp only [Machine.exec, execMissingFrameMark] at e
    split at e <;> exact same e rfl
  | headerComplete b =>
    simp only [Machine.exec, execHeaderComplete] at e
    split at e
    · split at e <;> exact same e rfl
    · split at e <;> exact same e rfl
    all_goals exact same e rfl
  | watchTimerExpiry =>
    simp only [Machine.exec, execWatchTimerExpiry] at e
    split at e
    · cases e; exact h.loseHighway closed
    all_goals exact same e rfl
  | roundStart =>
    simp only [Machine.exec, execRoundStart] at e
    split at e
    · split at e <;> exact same e rfl
    · exact same e rfl
  | roundOutcome x y =>
    simp only [Machine.exec, execRoundOutcome] at e
    split at e
    · split at e
      · split at e
        · cases e; exact State.AllContexts.winRound (s := s.endBid) adopts (h.congr rfl) _
        · split at e <;> exact same e rfl
      · split at e
        · split at e <;> exact same e rfl
        · exact same e rfl
    · exact same e rfl
  | sampleArrival lane q b =>
    simp only [Machine.exec, execSampleArrival] at e
    split at e
    · split at e
      · rename_i ho; cases e; exact h.arrive closed (owned ho) _
      · exact same e rfl
    · exact same e rfl
  | controlArrival lane k b =>
    simp only [Machine.exec, execControlArrival] at e
    split at e
    · split at e
      · rename_i ho; cases e; exact h.arrive closed (owned ho) _
      · exact same e rfl
    · exact same e rfl
  | announce lane p =>
    simp only [Machine.exec, execAnnounce] at e
    split at e
    · cases e; exact (h.releaseOwner closed lane).congr rfl
    · exact same e rfl
  | release lane =>
    simp only [Machine.exec, execRelease] at e
    split at e
    · cases e; exact (h.releaseOwner closed lane).congr rfl
    · exact same e rfl
  | idleArrival lane k => cases e; exact h
  | sampleEntryCompletion =>
    simp only [Machine.exec, execSampleEntryCompletion] at e
    split at e
    · split at e
      · split at e
        · rename_i hc _ _ _ hp
          cases e
          refine h.completeFor closed _ fun d hd hq => ?_
          rw [hc] at hd
          cases hd
          exact (ended.set _ (samples _ _ _ _ _ hc hp hq)).congr rfl
        · cases e
      all_goals cases e; exact h.completeFor closed _ fun _ _ _ => ended
    all_goals exact same e rfl
  | freeze => cases e; exact h.completeControl closed fun i b c hc => ended.set i (closed.frozen c true hc)
  | thaw => cases e; exact h.completeControl closed fun i b c hc => ended.set i (closed.frozen c false hc)
  | retrain => cases e; exact h.completeControl closed fun i b c hc => ended.set i (closed.retrained c _ _ hc)
  | clear => cases e; exact h.completeControl closed fun i b c hc => ended.set i (closed.cleared c _ hc)
  | farDelay => cases e; exact h.completeControl closed fun i b c hc => ended.farDelay closed hc b
  | farOff => cases e; exact h.completeControl closed fun i b c hc => ended.farOff closed hc b
  | exportTaps => cases e; exact h.completeControl closed fun i b c hc => ended.set i (closed.exported c _ _ _ _ hc)
  | importTaps =>
    cases e
    refine h.completeControl closed fun i b c hc => ?_
    unfold State.importOutcome
    split
    · split
      · exact ended.set i (closed.imported c _ _ _ _ hc)
      · exact ended.set i (closed.latched c _ hc)
    · exact ended.set i (closed.latched c _ hc)
  | unknownControl => cases e; exact h.completeControl closed fun _ _ _ _ => ended
  | upstreamWrite lane =>
    simp only [Machine.exec, execUpstreamWrite] at e
    split at e
    · split at e
      · rename_i ho; cases e; exact (h.set _ (closed.upstream _ (owned ho))).congr rfl
      · exact same e rfl
    · exact same e rfl

/-- A property that the elementary changes keep is kept by every step. -/
theorem State.AllContexts.step (closed : ContextClosed Q) (adopts : s.AdoptsInto Q) (samples : s.SamplesInto Q)
    (h : s.AllContexts Q) (e : Machine.step s = .next t) :
    t.AllContexts Q := by
  unfold Machine.step at e
  split at e
  · rename_i c rest _
    exact State.AllContexts.exec closed (s := { s with pending := rest }) adopts samples (h.congr rfl) c e
  · unfold tick at e
    split at e
    · split at e
      · cases e; exact h.congr rfl
      · exact State.AllContexts.exec closed adopts samples h .watchTimerExpiry e
    · cases e; exact h

end

end Sys2Proof.Machine
end

