-- ==== Sys2Proof/Laws/History.lean ====
section
/-! SUPPORT. History memory: a read after a write, the canonical form, and the ring's position of an index. -/

namespace Sys2Proof.Machine

/-- The position just written reads as what was written. -/
@[simp] theorem cellsRead_write_self (cells : List (Nat × Sample)) (a : Nat) (v : Sample) :
    cellsRead (cellsWrite cells a v) a = some v := by
  induction cells with
  | nil => simp [cellsWrite, cellsRead]
  | cons c rest ih =>
    obtain ⟨b, u⟩ := c
    simp only [cellsWrite]
    split
    · simp [cellsRead]
    · split
      · simp [cellsRead]
      · simp [cellsRead, *]

/-- Every other position reads as before. -/
theorem cellsRead_write_of_ne (cells : List (Nat × Sample)) {a b : Nat} (v : Sample) (h : b ≠ a) :
    cellsRead (cellsWrite cells a v) b = cellsRead cells b := by
  induction cells with
  | nil => simp [cellsWrite, cellsRead, h]
  | cons c rest ih =>
    obtain ⟨d, u⟩ := c
    simp only [cellsWrite]
    split
    · simp [cellsRead, h]
    · split
      · subst d; simp [cellsRead, h]
      · simp [cellsRead, ih]

/-- The addresses after a write are the ones before and the one written. -/
theorem mem_cellsWrite (cells : List (Nat × Sample)) (a : Nat) (v : Sample) {x : Nat}
    (h : x ∈ (cellsWrite cells a v).map Prod.fst) : x = a ∨ x ∈ cells.map Prod.fst := by
  induction cells with
  | nil => simpa [cellsWrite] using h
  | cons c rest ih =>
    obtain ⟨b, u⟩ := c
    simp only [cellsWrite] at h
    split at h
    · simpa using h
    · split at h
      · simp only [List.map_cons, List.mem_cons] at h ⊢; tauto
      · simp only [List.map_cons, List.mem_cons] at h ⊢
        rcases h with h | h
        · exact .inr (.inl h)
        · rcases ih h with h | h
          · exact .inl h
          · exact .inr (.inr h)

/-- A write to a position that exists keeps the canonical form. -/
theorem cellsWrite_wf {cells : List (Nat × Sample)} (h : cellsWf cells) {a : Nat} (ha : a < 16384) (v : Sample) :
    cellsWf (cellsWrite cells a v) := by
  have low : ∀ c ∈ cellsWrite cells a v, c.1 < 16384 := fun c hc => by
    rcases mem_cellsWrite cells a v (List.mem_map_of_mem hc) with e | e
    · omega
    · obtain ⟨d, hd, e⟩ := List.mem_map.1 e
      exact e ▸ h.2 d hd
  refine ⟨?_, low⟩
  clear low ha
  have rising := h.1
  clear h
  induction cells with
  | nil => simp [cellsWrite]
  | cons c rest ih =>
    obtain ⟨b, u⟩ := c
    simp only [List.map_cons, List.pairwise_cons] at rising
    simp only [cellsWrite]
    split
    · simp only [List.map_cons, List.pairwise_cons, List.mem_cons]
      refine ⟨fun x hx => ?_, rising⟩
      rcases hx with rfl | hx
      · assumption
      · have := rising.1 x hx; omega
    · split
      · subst b; simpa using rising
      · simp only [List.map_cons, List.pairwise_cons]
        refine ⟨fun x hx => ?_, ih rising.2⟩
        rcases mem_cellsWrite rest a v hx with rfl | hx
        · omega
        · exact rising.1 x hx

/-- The empty history memory is canonical. -/
theorem cellsWf_nil : cellsWf [] := by simp [cellsWf]

/-- An address of a ring position names a position of history memory. -/
theorem Ring.address_lt (r : Ring) (i a : Nat) (h : r.address i = some a) : a < 16384 := by
  simp only [Ring.address, Option.map_eq_some_iff] at h
  obtain ⟨p, -, rfl⟩ := h
  have := p.isLt
  simp only [Config.pageSize]
  omega

/-- Every index below the ring length names a position (R71). -/
theorem Ring.address_isSome (r : Ring) {i : Nat} (h : i < r.length) : (r.address i).isSome = true := by
  have : i / 64 < r.pages.length := by
    simp only [Ring.length, Config.pageSize] at h; omega
  simp [Ring.address, Config.pageSize, this]

/-- A ring write keeps the canonical form. -/
theorem Ring.put_wf (r : Ring) {cells : List (Nat × Sample)} (h : cellsWf cells) (x : Sample) :
    cellsWf (r.put cells x) := by
  unfold Ring.put
  split
  · exact cellsWrite_wf h (r.address_lt _ _ ‹_›) x
  · exact h

end Sys2Proof.Machine
end

