-- ==== Sys2Proof/Laws/Stages.lean ====
section
/-! SUPPORT. What each stage of a SAMPLE entry can change: one equation per stage, and the fields that the whole entry
leaves. -/

namespace Sys2Proof.Machine

/-! ### One equation per stage -/

/-- A ring write changes the far section, history memory and the latched conditions (R72). -/
theorem Progress.writeRing_eq (p : Progress) (x : Sample) : p.writeRing x =
    { call := p.call.withFar (p.writeRing x).call.far, cells := (p.writeRing x).cells
      latched := (p.writeRing x).latched } := by
  unfold Progress.writeRing
  split
  · split <;> rfl
  · rfl
  all_goals rfl

theorem Progress.writeZeros_eq (n : Nat) (p : Progress) : Progress.writeZeros n p =
    { call := p.call.withFar (Progress.writeZeros n p).call.far, cells := (Progress.writeZeros n p).cells
      latched := (Progress.writeZeros n p).latched } := by
  induction n generalizing p with
  | zero => rfl
  | succ n ih =>
    have e : Progress.writeZeros (n + 1) p = Progress.writeZeros n (p.writeRing Cplx.zero) := rfl
    rw [e, ih, Progress.writeRing_eq]
    rfl

/-- Stage 1 (R27). -/
theorem Progress.gapFill_eq (p : Progress) (g : BitVec 4) : p.gapFill g =
    { call := { p.call with far := (p.gapFill g).call.far, nearLine := (p.gapFill g).call.nearLine
                            eqLine := (p.gapFill g).call.eqLine, stamp := (p.gapFill g).call.stamp }
      cells := (p.gapFill g).cells, latched := (p.gapFill g).latched } := by
  unfold Progress.gapFill
  split
  · rfl
  · dsimp only
    have h := Progress.writeZeros_eq g.toNat p
    generalize Progress.writeZeros g.toNat p = q at h ⊢
    rw [h]; rfl

/-- Stage 2 (R28). -/
theorem Progress.historyWrite_eq (p : Progress) (x : Sample) : p.historyWrite x =
    { call := { p.call with far := (p.writeRing x).call.far, nearLine := shiftIn x p.call.nearLine
                            stamp := p.call.stamp + 1 }
      cells := (p.writeRing x).cells, latched := (p.writeRing x).latched } := by
  unfold Progress.historyWrite
  rw [Progress.writeRing_eq]; rfl

/-- Stage 8, signal monitor (R107, R108). -/
theorem Progress.signalMonitor_eq (p : Progress) (v : SampleValues) : p.signalMonitor v =
    { call := { p.call with signalPower := (p.signalMonitor v).call.signalPower
                            signalState := (p.signalMonitor v).call.signalState }
      cells := p.cells, latched := (p.signalMonitor v).latched } := rfl

/-- Stage 8, error monitor (R110, R111). -/
theorem Progress.errorMonitor_eq (p : Progress) (v : SampleValues) : p.errorMonitor v =
    { call := { p.call with errorPower := (p.errorMonitor v).call.errorPower
                            errorState := (p.errorMonitor v).call.errorState
                            hold := (p.errorMonitor v).call.hold }
      cells := p.cells, latched := (p.errorMonitor v).latched } := by
  unfold Progress.errorMonitor
  dsimp only
  split <;> rfl

/-- Stage 9 (R48, R49). -/
theorem Progress.echoAdaptation_eq (p : Progress) (ph : Phase) (e : SampleEntry) (v : SampleValues) :
    p.echoAdaptation ph e v =
      { call := { p.call with nearTaps := (p.echoAdaptation ph e v).call.nearTaps
                              farTaps := (p.echoAdaptation ph e v).call.farTaps }
        cells := p.cells, latched := (p.echoAdaptation ph e v).latched } := by
  unfold Progress.echoAdaptation
  dsimp only
  split
  · split <;> rfl
  · rfl

/-- Stage 10 (R87). -/
theorem Progress.eqAdaptation_eq (p : Progress) (ph : Phase) (e : SampleEntry) (v : SampleValues) :
    p.eqAdaptation ph e v =
      { call := { p.call with eqTaps := (p.eqAdaptation ph e v).call.eqTaps }
        cells := p.cells, latched := (p.eqAdaptation ph e v).latched } := by
  unfold Progress.eqAdaptation
  dsimp only
  split <;> rfl

/-- Stage 11 (R96, R97). -/
theorem Progress.schedule_eq (p : Progress) (ph : Phase) (n : Nat) : p.schedule ph n =
    { call := { p.call with phase := (p.schedule ph n).call.phase, count := (p.schedule ph n).call.count }
      cells := p.cells, latched := (p.schedule ph n).latched } := by
  unfold Progress.schedule
  dsimp only
  repeat' split
  all_goals rfl

/-- Stage 12 (R17, R31). -/
theorem Progress.result_eq (p : Progress) (v : SampleValues) : p.result v =
    { call := { p.call with outputQueue := (p.result v).call.outputQueue }
      cells := p.cells, latched := (p.result v).latched } := by
  unfold Progress.result
  dsimp only
  split <;> rfl

/-! ### The far section -/

/-- A ring write keeps the pages. -/
@[simp] theorem Progress.writeRing_pages (p : Progress) (x : Sample) :
    (p.writeRing x).call.far.pages = p.call.far.pages := by
  unfold Progress.writeRing
  split
  · rename_i r h
    split <;> simp [h, Call.withFar, FarSection.pages, Ring.advance]
  · rename_i r h; simp [h, Call.withFar, FarSection.pages, Ring.advance]
  all_goals rfl

/-- A ring write neither begins nor ends a wait for pages. -/
@[simp] theorem Progress.writeRing_isWaiting (p : Progress) (x : Sample) :
    (p.writeRing x).call.far.isWaiting = p.call.far.isWaiting := by
  unfold Progress.writeRing
  split
  · rename_i r h
    split <;> simp [h, Call.withFar, FarSection.isWaiting]
  · rename_i r h; simp [h, Call.withFar, FarSection.isWaiting]
  all_goals rfl

/-- A ring write keeps the canonical form of history memory. -/
theorem Progress.writeRing_wf (p : Progress) (x : Sample) (h : cellsWf p.cells) : cellsWf (p.writeRing x).cells := by
  unfold Progress.writeRing
  split
  · split <;> exact Ring.put_wf _ h _
  · exact Ring.put_wf _ h _
  all_goals exact h

theorem Progress.writeZeros_far (n : Nat) (p : Progress) :
    (Progress.writeZeros n p).call.far.pages = p.call.far.pages ∧
    (Progress.writeZeros n p).call.far.isWaiting = p.call.far.isWaiting ∧
    (cellsWf p.cells → cellsWf (Progress.writeZeros n p).cells) := by
  induction n generalizing p with
  | zero => exact ⟨rfl, rfl, id⟩
  | succ n ih =>
    obtain ⟨h1, h2, h3⟩ := ih (p.writeRing Cplx.zero)
    exact ⟨h1.trans (p.writeRing_pages _), h2.trans (p.writeRing_isWaiting _), fun h => h3 (p.writeRing_wf _ h)⟩

theorem Progress.gapFill_far (p : Progress) (g : BitVec 4) :
    (p.gapFill g).call.far.pages = p.call.far.pages ∧
    (p.gapFill g).call.far.isWaiting = p.call.far.isWaiting ∧
    (cellsWf p.cells → cellsWf (p.gapFill g).cells) := by
  unfold Progress.gapFill
  split
  · exact ⟨rfl, rfl, id⟩
  · exact Progress.writeZeros_far _ p

theorem historyStages_far (e : SampleEntry) (c : Call) (cells : List (Nat × Sample)) :
    (historyStages e c cells).call.far.pages = c.far.pages ∧
    (historyStages e c cells).call.far.isWaiting = c.far.isWaiting ∧
    (cellsWf cells → cellsWf (historyStages e c cells).cells) := by
  unfold historyStages
  obtain ⟨h1, h2, h3⟩ := Progress.gapFill_far { call := c, cells := cells, latched := [] } e.gap
  rw [Progress.historyWrite_eq]
  exact ⟨(Progress.writeRing_pages _ _).trans h1, (Progress.writeRing_isWaiting _ _).trans h2,
    fun h => Progress.writeRing_wf _ _ (h3 h)⟩

/-! ### The whole entry -/

/-- Stages 3 to 12 change no history memory and no far section. -/
theorem laterStages_far (ph : Phase) (n : Nat) (e : SampleEntry) (p : Progress) :
    (laterStages ph n e p).cells = p.cells ∧ (laterStages ph n e p).call.far = p.call.far := by
  unfold laterStages
  dsimp only
  rw [Progress.result_eq, Progress.schedule_eq, Progress.eqAdaptation_eq, Progress.echoAdaptation_eq,
    Progress.errorMonitor_eq]
  exact ⟨rfl, rfl⟩

/-- The fields of a call that no stage of a SAMPLE entry changes. -/
structure Call.SameOwner (c d : Call) : Prop where
  lane : d.lane = c.lane
  profile : d.profile = c.profile
  settings : d.settings = c.settings
  inputQueue : d.inputQueue = c.inputQueue
  lastSequence : d.lastSequence = c.lastSequence
  frozen : d.frozen = c.frozen
  exportRun : d.exportRun = c.exportRun
  conditions : d.conditions = c.conditions
  statusDue : d.statusDue = c.statusDue
  firstReported : d.firstReported = c.firstReported

theorem Call.SameOwner.trans {a b c : Call} (h : a.SameOwner b) (h' : b.SameOwner c) : a.SameOwner c :=
  ⟨h'.lane.trans h.lane, h'.profile.trans h.profile, h'.settings.trans h.settings,
   h'.inputQueue.trans h.inputQueue, h'.lastSequence.trans h.lastSequence, h'.frozen.trans h.frozen,
   h'.exportRun.trans h.exportRun, h'.conditions.trans h.conditions, h'.statusDue.trans h.statusDue,
   h'.firstReported.trans h.firstReported⟩

theorem historyStages_sameOwner (e : SampleEntry) (c : Call) (cells : List (Nat × Sample)) :
    c.SameOwner (historyStages e c cells).call := by
  unfold historyStages
  rw [Progress.historyWrite_eq, Progress.gapFill_eq]
  exact ⟨rfl, rfl, rfl, rfl, rfl, rfl, rfl, rfl, rfl, rfl⟩

theorem laterStages_sameOwner (ph : Phase) (n : Nat) (e : SampleEntry) (p : Progress) :
    p.call.SameOwner (laterStages ph n e p).call := by
  unfold laterStages
  dsimp only
  rw [Progress.result_eq, Progress.schedule_eq, Progress.eqAdaptation_eq, Progress.echoAdaptation_eq,
    Progress.errorMonitor_eq]
  exact ⟨rfl, rfl, rfl, rfl, rfl, rfl, rfl, rfl, rfl, rfl⟩

/-- A SAMPLE entry leaves these fields (R26). -/
theorem sampleStages_sameOwner (ph : Phase) (n : Nat) (e : SampleEntry) (c : Call) (cells : List (Nat × Sample)) :
    c.SameOwner (sampleStages ph n e c cells).call :=
  (historyStages_sameOwner e c cells).trans (laterStages_sameOwner ph n e _)

/-- A SAMPLE entry keeps the pages and the waiting of its far section, and the canonical form of history memory. -/
theorem sampleStages_far (ph : Phase) (n : Nat) (e : SampleEntry) (c : Call) (cells : List (Nat × Sample)) :
    (sampleStages ph n e c cells).call.far.pages = c.far.pages ∧
    (sampleStages ph n e c cells).call.far.isWaiting = c.far.isWaiting ∧
    (cellsWf cells → cellsWf (sampleStages ph n e c cells).cells) := by
  unfold sampleStages
  obtain ⟨h1, h2⟩ := laterStages_far ph n e (historyStages e c cells)
  rw [h1, h2]
  exact historyStages_far e c cells

end Sys2Proof.Machine
end

