-- ==== Sys2Proof/Tests/Slice0.lean ====
section
/-! SUPPORT. Tests of the model against the worked examples and tables of spec/, each a named theorem closed by `decide`.
A test's expected values are the spec's own; its docstring names the place. -/

namespace Sys2Proof.Tests

open Sys2Proof.Machine

/-! ### Helpers: small profiles, calls and stations -/

/-- A profile with Nn = 2, Nf = 0, Ne = 4, M = 4, grid 1000, schedule 0, the PUMP gate, every enable off, and 154 load
points. -/
def smallProfile : Profile :=
  { rateCode := 0, levelsCode := 1, grid := 1000, nn := 2, nf := 0, ne := 4, schedule := 0, ks := 4, kq := 1
    gate := .pump, reportMode := .every, signalRise := false, signalFall := false, errorRise := false
    errorFall := false, clipEnable := false, tOn := 1200000, tOff := 800000, tConv := 20000, tDiv := 200000
    load := 154 }

/-- The same with Nf = 16. -/
def farProfile : Profile := { smallProfile with nf := 16, load := 410 }

/-- A phase of length 3 with Se = 12, Sw = 10, mode DECISION, no leak, far-adapt on. -/
def smallPhase : Phase := { length := 3, se := 12, sw := 10, mode := .decision, leak := 0, farAdapt := true }

/-- A call on a lane under a profile, as adopted. -/
def newCall (lane : Lane) (p : Profile) : Call := adoptedCall lane 0 p

/-- An ACTIVE station with its first contexts LIVE, in an idle engine. -/
def station (calls : List Call) : State :=
  let contexts := Vector.ofFn fun i : Fin 24 =>
    match calls[i.val]? with
    | some c => Context.live c
    | none => .free
  { State.reset with
    loader := { Loader.reset with
      station := .active, profiles := (Vector.replicate 16 none).set 0 (some farProfile),
      schedules := (Vector.replicate 8 none).set 0 (some [smallPhase, { smallPhase with length := 4 }]) }
    highway := { Highway.reset with frameNumber := some 12, watch := some 0, goodFrames := 64 }
    adoption := { Adoption.reset 5000000 with
      freeLoad := 4096 - (calls.map fun c => c.settings.load).sum, stationNumber := some 3 }
    contexts := contexts }

/-- The station with a control in the engine for context 0: the kind code and its first parameter bytes. -/
def working (s : State) (kind : BitVec 4) (bytes : List Byte) : State :=
  let entry : Entry := .control { kind := kind, bytes := Vector.ofFn fun i => bytes[i.val]?.getD 0 }
  { s with engine := { s.engine with job := some { context := 0, entry := entry } } }

/-- A SAMPLE entry with no tags. -/
def plainEntry (x r0 r1 : Sample) : SampleEntry :=
  { sequence := 0, symbol := x, r0 := r0, r1 := r1, reference := none, quiet := true, gap := 0, clipped := false }

/-- A complex word from two integers. -/
def cx {w : Nat} (i q : Int) : Cplx w := ⟨BitVec.ofInt w i, BitVec.ofInt w q⟩

/-- What an outcome's next state shows, if it is one. -/
def view {α : Type} (f : State → α) : Host.Outcome State Fault Refusal → Option α
  | .next t => some (f t)
  | .fault _ => none
  | .refused _ => none

/-- A field of the call of context 0. -/
def call0 {α : Type} (f : Call → α) (s : State) : Option α := s.contexts[(0 : Fin 24)].call?.map f

/-! ### WellFormed refuses an ill-formed command by each of its checks -/

theorem test_wf_mark : (Instr.frameMark 0).wellFormed = false := by decide
theorem test_wf_headers_multiple : (Instr.headersRead (List.replicate 9 0)).wellFormed = false := by decide
theorem test_wf_headers_none : (Instr.headersRead []).wellFormed = false := by decide
theorem test_wf_headers_five : (Instr.headersRead (List.replicate 40 0)).wellFormed = false := by decide
theorem test_wf_schedules_multiple : (Instr.scheduleTableRead (List.replicate 67 0)).wellFormed = false := by decide
theorem test_wf_schedules_nine : (Instr.scheduleTableRead (List.replicate 612 0)).wellFormed = false := by decide +kernel
theorem test_wf_profiles_multiple : (Instr.profileTableRead (List.replicate 31 0)).wellFormed = false := by decide
theorem test_wf_profiles_seventeen : (Instr.profileTableRead (List.replicate 544 0)).wellFormed = false := by decide +kernel
theorem test_wf_idle_kind : (Instr.idleArrival 0 2).wellFormed = false := by decide
theorem test_wf_idle_unowned : (Instr.idleArrival 0 15).wellFormed = true := by decide

/-! ### Formats (12.5) -/

/-- The SAMPLE of 12.5, byte for byte. -/
def example125 : Vector Byte 18 :=
  #v[0x29, 0x02, 0x0B, 0xB8, 0xFC, 0x18, 0x0A, 0x28, 0xFE, 0x70, 0xFF, 0x38, 0x01, 0x2C, 0x55, 0x55, 0x55, 0x55]

theorem test_half_is_sample : commandOfHalf 17 example125 = .sampleArrival 17 9 (payloadOf example125) := by decide

/-- 12.5: sequence 9, no reference, QUIET, (3000, −1000), (2600, −400), (−200, 300). -/
theorem test_sample_fields :
    (newCall 0 smallProfile).sampleEntry 9 (payloadOf example125)
      = { sequence := 9, symbol := cx 3000 (-1000), r0 := cx 2600 (-400), r1 := cx (-200) 300, reference := none,
          quiet := true, gap := 0, clipped := false } := by decide

/-- 12.5: the RESULT with stamp 1, (1125, 400), (1000, 1000), (−125, 600) and status code 4. -/
theorem test_result_bytes :
    (UpstreamRecord.result 4
        { soft := cx 1125 400, decision := cx 1000 1000, error := cx (-125) 600, stamp := 1 }).bytes
      = #v[0x10, 0x04, 0x00, 0x01, 0x04, 0x65, 0x01, 0x90, 0x03, 0xE8, 0x03, 0xE8, 0xFF, 0x83, 0x02, 0x58, 0, 0] := by
  decide

/-! ### Arithmetic (R38, 3.8, 5.8) -/

/-- R38: round_22 of 1.5 × 2^22 is 2, of −1.5 × 2^22 is −1; round_S(−1) is 0. -/
theorem test_rounding :
    roundShift 22 6291456 = 2 ∧ roundShift 22 (-6291456) = -1 ∧ roundShift 1 (-1) = 0 ∧ roundShift 24 (-1) = 0 := by
  decide

/-- The slicer table of 5.8.1 at its boundaries. -/
theorem test_slicer :
    slicePart 4 1000 2000 = 3000 ∧ slicePart 4 1000 1999 = 1000 ∧ slicePart 4 1000 0 = 1000 ∧
    slicePart 4 1000 (-1) = -1000 ∧ slicePart 4 1000 (-2001) = -3000 ∧ slicePart 4 1000 (-32768) = -3000 ∧
    slicePart 16 2184 32767 = 32760 := by decide

/-- The leak table of 5.8.3. -/
theorem test_leak :
    leakPart 1 3 = 1 ∧ leakPart 1 1 = 0 ∧ leakPart 1 (-1) = -1 ∧ leakPart 2 2 = 1 ∧ leakPart 2 (-3) = -2 ∧
    leakPart 12 3 = 3 := by decide

/-- The context of 3.8.1 before the entry. -/
def call381 : Call :=
  { newCall 0 smallProfile with
    nearLine := [cx 1000 1000, cx 0 0], nearTaps := [cx 2097152 0, cx 0 0, cx 0 0, cx 0 0] }

/-- The entry of 3.8.1. -/
def entry381 : SampleEntry := plainEntry (cx 3000 (-1000)) (cx 2600 (-400)) (cx (-200) 300)

/-- 3.8.1: the replicas and residuals. -/
theorem test_replica_residual :
    ((historyStages entry381 call381 []).values entry381).y0 = cx 1500 (-500) ∧
    ((historyStages entry381 call381 []).values entry381).e0 = cx 1100 100 ∧
    ((historyStages entry381 call381 []).values entry381).e1 = cx (-200) 300 := by decide

/-- 3.8.1: the near taps after the update. -/
theorem test_near_update :
    (sampleStages smallPhase 2 entry381 call381 []).call.nearTaps
      = [cx 2097933 342, cx 293 (-244), cx (-220) 171, cx 24 122] := by decide

/-- 3.8.2: RESIDUAL_CLIP, and the tap of sample phase 0 after the update. -/
theorem test_residual_clip :
    let p := { smallProfile with nn := 1 }
    let c := { newCall 0 p with nearTaps := [cx 8388000 0, cx 0 0] }
    let e := plainEntry (cx 32767 0) (cx (-30000) 0) (cx 1000 0)
    let done := sampleStages { smallPhase with se := 8, sw := 0 } 2 e c []
    done.call.nearTaps = [cx 4193824 0, cx 127996 0] ∧ done.latched = [.residualClip] := by decide

/-- 3.8.2: the tap clamp. -/
theorem test_tap_clip :
    let p := { smallProfile with nn := 1 }
    let c := { newCall 0 p with nearTaps := [cx 8388000 0, cx 0 0] }
    let e := plainEntry (cx 10000 0) (cx 20099 0) (cx 0 0)
    let done := sampleStages { smallPhase with se := 8, sw := 0 } 2 e c []
    done.call.nearTaps = [cx 8388607 0, cx 0 0] ∧ done.latched = [.tapClip] := by decide

/-- The context of 5.8.2 before the entry; its residuals come from zero echo taps. -/
def call582 : Call :=
  { newCall 0 smallProfile with
    eqLine := [cx 400 (-200), cx (-300) 100, cx 50 60, cx 10 10]
    eqTaps := [cx 0 0, cx 4194304 0, cx (-1048576) 524288, cx 0 0] }

/-- 5.8.2: the soft symbol, decision, error, and the taps after the update with L = 12. -/
theorem test_equalizer :
    let e := plainEntry (cx 0 0) (cx 1200 300) (cx 900 (-700))
    let v := (historyStages e call582 []).values e
    v.soft = cx 1125 400 ∧ v.decision = cx 1000 1000 ∧ v.error = cx (-125) 600 ∧
    (sampleStages { smallPhase with leak := 12 } 2 e call582 []).call.eqTaps
      = [cx (-520) 442, cx 4193309 740, cx (-1048486) 524370, cx 95 (-164)] := by decide

/-- 7.9.1: one signal power update. -/
theorem test_signal_power :
    averaged 1000000 4 ((squaredMagnitude (cx 3000 1000) + squaredMagnitude (cx 0 0)) / 2) = 1250000 ∧
    signalAfter .absent 1250000 1200000 800000 = .present ∧ signalAfter .present 937500 1200000 800000 = .present := by
  decide

/-- 7.3.1: S5 converges and S7 diverges. -/
theorem test_error_power :
    averaged 21875 1 (squaredMagnitude (cx 100 0)) = 15938 ∧ errorAfter .unsettled 15938 20000 200000 = .settled ∧
    averaged 177969 1 (squaredMagnitude (cx 500 300)) = 258985 ∧
    errorAfter .settled 258985 20000 200000 = .unsettled := by decide

/-! ### Arrivals (1.5) -/

/-- The arrival of a SAMPLE with a sequence number in lane 17. -/
def arrival17 (sequence : BitVec 4) : Instr := .sampleArrival 17 sequence (payloadOf example125)

/-- A station whose engine is busy with context 1, and whose context 0 is LIVE on lane 17 with its queue given. -/
def queued (last : BitVec 4) (queue : List Entry) : State :=
  { station [{ newCall 17 smallProfile with lastSequence := some last, inputQueue := queue }, newCall 3 smallProfile]
    with engine := { job := some { context := 1, entry := .control { kind := 1, bytes := Vector.replicate 17 0 } },
                     lastServed := 3 } }

/-- 1.5: S2 after a discarded S1 is counted against 0, gap 1. -/
theorem test_gap_after_overrun :
    view (call0 fun c => (c.inputQueue.length, c.lastSequence)) (exec (arrival17 2) (queued 0 [])) = some (some (1, some 2)) ∧
    gapCount (some 0) 2 = 1 ∧ gapCount (some 15) 0 = 0 ∧ gapCount (some 7) 7 = 15 ∧ gapCount none 9 = 0 := by decide

/-- 1.5: S1 at a full queue is discarded with OVERRUN, and does not move the last queued sequence. -/
theorem test_overrun :
    view (call0 fun c => (c.inputQueue.length, c.lastSequence, c.isPending .overrun, c.statusDue))
      (exec (arrival17 1) (queued 0 (List.replicate 3 (.sample entry381)))) = some (some (3, some 0, true, true)) := by
  decide

/-- R22: an arrival at an idle engine is taken at once; the lane becomes the last served. -/
theorem test_take_at_arrival :
    view (fun t => (t.engine.job.isSome, t.engine.lastServed)) (exec (arrival17 5) (station [newCall 17 smallProfile]))
      = some (true, 17) := by decide

/-- R12: a CONTROL in a lane that the station does not own is ignored. -/
theorem test_control_not_owned :
    view (fun t => t.engine.job.isSome)
      (exec (.controlArrival 40 1 (Vector.replicate 17 0)) (station [newCall 17 smallProfile])) = some false := by decide

theorem test_control_queued :
    view (call0 fun c => c.inputQueue)
      (exec (.controlArrival 17 6 (Vector.replicate 17 0)) (queued 0 [])) =
        some (some [.control { kind := 6, bytes := Vector.replicate 17 0 }]) := by decide

theorem test_idle_arrival : view (fun t => t.pending) (exec (.idleArrival 3 15) (station [])) = some [] := by decide

/-- 2.2.1, first row: after lane 20 the search takes lane 62 before lane 5. -/
theorem test_engine_choice :
    let busy (lane : Lane) := { newCall lane smallProfile with inputQueue := [.sample entry381] }
    let s := station [busy 5, newCall 20 smallProfile, busy 62]
    let t := State.takeNext { s with engine := { job := none, lastServed := 20 } }
    t.engine.lastServed = 62 ∧ t.engine.job.map (fun j => j.context) = some 2 := by decide

/-! ### Far sections and the allocator (Table 4-1, 4.8) -/

/-- Table 4-1. -/
theorem test_need :
    pageNeed 0 8 = 1 ∧ pageNeed 1500 16 = 24 ∧ pageNeed 2000 16 = 32 ∧ pageNeed 4080 16 = 64 ∧ pageNeed 4095 1 = 64 ∧
    (newCall 0 farProfile).farDelayTaken 4081 = false := by decide

/-- 4.8, first row: A's FAR_DELAY 1500 is granted pages 0 to 23 at once. -/
theorem test_far_delay :
    view (fun t => (t.contexts[(0 : Fin 24)].pages.length, t.history.freePages.length, t.history.freePages.head?))
      (exec .farDelay (working (station [newCall 6 farProfile]) 4 [0x05, 0xDC])) = some (24, 232, some 24) := by
  decide +kernel

theorem test_far_refused :
    view (call0 fun c => (c.far, c.isPending .farRefused))
      (exec .farDelay (working (station [newCall 6 smallProfile]) 4 [0x05, 0xDC])) = some (some (.absent, true)) := by
  decide

/-- 4.8, last row in small: a FAR_OFF returns its pages to the tail and the waiter at the head is granted. -/
theorem test_far_off :
    let holder := { newCall 6 farProfile with
      far := .active { delay := 0, pages := [7, 8], writeIndex := 20, fill := 20 } }
    let waiter := { newCall 9 farProfile with far := .waiting 100 }
    let s := station [holder, waiter]
    view (fun t => (t.contexts[(0 : Fin 24)].pages, t.contexts[(1 : Fin 24)].pages, t.history.freePages, t.history.waitList))
      (exec .farOff (working { s with history := { cells := [], freePages := [3], waitList := [(1, 2)] } } 5 []))
      = some ([], [3, 7], [8], []) := by decide

/-- 4.9: the gap symbol that brings the fill count to D + Nf makes the far section ACTIVE with FAR_ACTIVE. -/
theorem test_ring_active :
    let ring : Ring := { delay := 10, pages := [2], writeIndex := 62, fill := 25 }
    let c := { newCall 0 farProfile with far := .filling ring }
    let p := Progress.writeRing { call := c, cells := [], latched := [] } (cx 5 6)
    p.call.far = .active { ring with writeIndex := 63, fill := 26 } ∧ p.latched = [.farActive] ∧
    p.cells = [(190, cx 5 6)] := by decide

/-! ### Controls -/

theorem test_freeze :
    view (call0 fun c => c.frozen) (exec .freeze (working (station [newCall 6 smallProfile]) 1 [])) = some (some true) := by
  decide

theorem test_thaw :
    view (call0 fun c => c.frozen)
      (exec .thaw (working (station [{ newCall 6 smallProfile with frozen := true }]) 2 [])) = some (some false) := by
  decide

/-- A call in its second phase, held and settled, with a consistent export running. -/
def retrainCall : Call :=
  { newCall 6 { smallProfile with errorRise := true } with
    phase := 1, count := 4, hold := true, errorState := .settled, errorPower := 7, eqTaps := [cx 1 2]
    exportRun := some { part := .eq, next := 1, last := 1, consistent := true } }

/-- 6.6: RETRAIN resets the cursor and the error monitor, and clears the hold. -/
theorem test_retrain :
    view (call0 fun c => (c.phase, c.count, c.hold, c.errorPower)) (exec .retrain (working (station [retrainCall]) 3 [2]))
      = some (some (0, 0, false, 200000)) := by decide

/-- 6.6: RETRAIN aborts the export, and keeps the equalizer taps with their option clear. -/
theorem test_retrain_taps :
    view (call0 fun c => (c.exportRun, c.isPending .exportAborted, c.eqTaps))
      (exec .retrain (working (station [retrainCall]) 3 [2])) = some (some (none, true, [cx 1 2])) := by decide

/-- R117: CLEAR naming DIVERGED, bit 0 of byte 3, clears it and the hold, and keeps what it does not name. -/
theorem test_clear :
    let c := { newCall 6 smallProfile with conditions := 0x2001, hold := true, firstReported := true }
    view (call0 fun c => (c.conditions, c.hold, c.firstReported, c.statusCode))
      (exec .clear (working (station [c]) 6 [0, 0, 1])) = some (some (0x2000, false, false, 14)) := by decide

/-- Table 8-1, third row, for a section of 12 segments: 10 and 11 are sent. -/
theorem test_last_segment :
    lastSegment 12 10 5 = 11 ∧ lastSegment 12 0 0 = 11 ∧ lastSegment 12 3 1 = 3 := by decide

/-- R122: a replacement that ends at once latches EXPORT_ABORTED and EXPORT_DONE. -/
theorem test_export_replaced :
    let c := { newCall 6 smallProfile with exportRun := some { part := .near, next := 0, last := 1, consistent := false } }
    view (call0 fun c => (c.exportRun, c.isPending .exportAborted, c.isPending .exportDone))
      (exec .exportTaps (working (station [c]) 7 [2, 2, 0, 0])) = some (some (none, true, true)) := by decide

/-- R128: an IMPORT while frozen writes places 2m and 2m + 1. -/
theorem test_import :
    view (call0 fun c => c.nearTaps)
      (exec .importTaps (working (station [{ newCall 6 smallProfile with frozen := true }]) 8
        [0, 1, 0, 0, 1, 0, 0, 2, 0xFF, 0xFF, 0xFF, 0x80, 0, 0]))
      = some (some [cx 0 0, cx 0 0, cx 1 2, cx (-1) (-8388608)]) := by decide

theorem test_import_refused :
    view (call0 fun c => (c.nearTaps, c.isPending .importRefused))
      (exec .importTaps (working (station [newCall 6 smallProfile]) 8 [0, 0, 0, 0, 1]))
      = some (some (List.replicate 4 (cx 0 0), true)) := by decide

theorem test_unknown_control :
    view (fun t => (t.engine.job.isSome, t.contexts)) (exec .unknownControl (working (station [newCall 6 smallProfile]) 12 []))
      = some (false, (station [newCall 6 smallProfile]).contexts) := by decide

/-- R26 and 12.5: the RESULT of the completed SAMPLE enters the output queue with stamp 1. -/
theorem test_sample_completion :
    let s := station [call381]
    view (call0 fun c => (c.outputQueue.map fun r => r.stamp, c.phase, c.count, c.stamp))
      (exec .sampleEntryCompletion { s with engine := { job := some { context := 0, entry := .sample entry381 }, lastServed := 0 } })
      = some (some ([1], 0, 1, 1)) := by decide

/-- 1.7: the completion for a RELEASING context discards the outcome and returns pages and load. -/
theorem test_discard :
    let c := { newCall 6 farProfile with far := .active { delay := 0, pages := [4, 5], writeIndex := 0, fill := 16 } }
    let s := station [c]
    view (fun t => (t.contexts[(0 : Fin 24)].isFree, t.history.freePages, t.adoption.freeLoad, t.engine.job.isSome))
      (exec .freeze (working { (s.setContext 0 (.releasing c)).withHistory { s.history with freePages := [9] } with
        pending := [] } 1 [])) = some (true, [9, 4, 5], 4096, false) := by decide

/-! ### Release, announce, rounds (1.7, 10.6) -/

/-- 1.7: a RELEASE of a context the engine works on leaves it RELEASING with its pages. -/
theorem test_release :
    let c := { newCall 6 farProfile with far := .active { delay := 0, pages := [4, 5], writeIndex := 0, fill := 16 } }
    view (fun t => (t.contexts[(0 : Fin 24)].isLive, t.contexts[(0 : Fin 24)].isFree, t.contexts[(0 : Fin 24)].pages,
        t.adoption.freeLoad)) (exec (.release 6) (working (station [c]) 1 [])) = some (false, false, [4, 5], 3686) := by
  decide

/-- 10.6, the re-announce: the context becomes FREE at once, its load returns, and the entry is set. -/
theorem test_announce :
    view (fun t => (t.contexts[(0 : Fin 24)].isFree, t.adoption.freeLoad, t.adoption.announced[(12 : Fin 64)]))
      (exec (.announce 12 5) (station [newCall 12 farProfile])) = some (true, 4096, some 5) := by decide

/-- 10.6: P bids 2000 − 410 = 1590 followed by its serial. -/
theorem test_round_start :
    let s := station []
    view (fun t => t.adoption.bid)
      (exec .roundStart { s with adoption := { s.adoption with
        freeLoad := 2000, announced := s.adoption.announced.set 12 (some 0) } })
      = some (some { lane := 12, profile := 0, value := (1590#13) ++ (0x4C4B40#24) }) := by decide

/-- 10.6: P survives T's bid of 1180, which stops at contend bit 4, and adopts; its confirm is valid, station 3. -/
theorem test_round_won :
    let s := station []
    view (fun t => (t.contexts[(0 : Fin 24)].isLive, t.adoption.freeLoad, t.adoption.confirm, t.adoption.announced[(12 : Fin 64)]))
      (exec (.roundOutcome ((0b001#3) ++ (0#34)) 0) { s with adoption := { s.adoption with
        freeLoad := 2000, announced := s.adoption.announced.set 12 (some 0)
        bid := some { lane := 12, profile := 0, value := (1590#13) ++ (0x4C4B40#24) } } })
      = some (true, 1590, some 0b10011, none) := by decide

/-- 10.6: T drops out where P sends 1, and clears its entry on P's confirm. -/
theorem test_round_lost :
    let s := station []
    view (fun t => (t.contexts[(0 : Fin 24)].isLive, t.adoption.announced[(12 : Fin 64)]))
      (exec (.roundOutcome ((1590#13) ++ (0x4C4B40#24)) 0b10011) { s with adoption := { s.adoption with
        freeLoad := 1590, announced := s.adoption.announced.set 12 (some 0)
        bid := some { lane := 12, profile := 0, value := (1180#13) ++ (0x700001#24) } } })
      = some (false, none) := by decide

/-! ### The highway (9.6) -/

/-- An UNSYNCED station with a good-frame count. -/
def unsynced (count : Nat) : State :=
  let s := station []
  { s with loader := { s.loader with station := .unsynced }, highway := { s.highway with goodFrames := count } }

/-- 9.6: an on-time mark brings 63 to 64 and the station to ACTIVE. -/
theorem test_mark_to_active :
    view (fun t => (t.loader.station, t.highway.goodFrames)) (exec (.frameMark 6144) (unsynced 63))
      = some (.active, 64) := by decide

/-- 9.6: a mark that is not on time counts 1. -/
theorem test_late_mark :
    view (fun t => (t.loader.station, t.highway.goodFrames)) (exec (.frameMark 12288) (unsynced 10))
      = some (.unsynced, 1) := by decide

theorem test_missing_mark : view (fun t => t.highway.goodFrames) (exec .missingFrameMark (unsynced 10)) = some 0 := by decide

/-- R165: the frame number is bits 5..0 of byte 0. -/
theorem test_header :
    view (fun t => t.highway.frameNumber) (exec (.headerComplete ((Vector.replicate 32 0xFF).set 0 0xD1)) (unsynced 3))
      = some (some 17) := by decide

/-- 9.6: at the expiry the context in the engine is RELEASING, the waiter is FREE, and the table is cleared. -/
theorem test_expiry :
    let inFlight := { newCall 40 farProfile with far := .active { delay := 0, pages := [4], writeIndex := 0, fill := 16 } }
    let s := working (station [inFlight, { newCall 2 farProfile with far := .waiting 9 }]) 1 []
    view (fun t => (t.loader.station, t.contexts[(0 : Fin 24)].isFree, t.contexts[(1 : Fin 24)].isFree,
        t.history.waitList.length, t.highway.goodFrames))
      (exec .watchTimerExpiry (s.withHistory { s.history with waitList := [(1, 1)] }))
      = some (.unsynced, false, true, 0, 0) := by decide +kernel

/-! ### Upstream writes (7.9, 8.8) -/

/-- A context with a RESULT, a STATUS due, and an export sends the RESULT first. -/
theorem test_upstream_result :
    let r : ResultEntry := { soft := cx 0 0, decision := cx 0 0, error := cx 0 0, stamp := 7 }
    let c := { newCall 21 smallProfile with outputQueue := [r], statusDue := true, conditions := 8 }
    view (fun t => (call0 (fun c => (c.outputQueue.length, c.statusDue)) t, t.highway.upstreamHalf.map fun u => u.bytes[0]))
      (exec (.upstreamWrite 21) (station [c])) = some (some (0, true), some 0x10) := by decide

/-- 8.8: the last segment removes the record, and EXPORT_DONE is latched after its status code was taken. -/
theorem test_upstream_last_segment :
    let c := { newCall 21 smallProfile with
      stamp := 500, exportRun := some { part := .near, next := 1, last := 1, consistent := false } }
    view (fun t => (call0 (fun c => (c.exportRun, c.isPending .exportDone)) t,
        t.highway.upstreamHalf.map fun u => (u.bytes[0], u.bytes[1], u.bytes[2], u.bytes[3])))
      (exec (.upstreamWrite 21) (station [c])) = some (some (none, true), some (0x31, 0, 1, 0xF4)) := by decide

/-! ### Start-up (11.2, 11.5, Table 10-1) -/

/-- 11.2: station number 3 needs its parity pin high, station number 11 low. -/
theorem test_straps :
    strapParityGood 3 true = true ∧ strapParityGood 11 false = true ∧ strapParityGood 0 false = false ∧
    strapParityGood 15 true = true := by decide

/-- 11.5: station bits 0110 with the parity pin high start the read of the signature block. -/
theorem test_reset_released :
    view (fun t => (t.loader.station, t.adoption.stationNumber, t.loader.spi)) (exec (.resetPinReleased 6 true) State.reset)
      = some (.loading, some 6, some { address := 0, count := 8 }) := by decide

theorem test_reset_asserted :
    view (fun t => (t.loader.station, t.contexts[(0 : Fin 24)].isFree, t.adoption.freeLoad))
      (exec .resetPinAsserted (station [newCall 4 farProfile])) = some (.reset, true, 4096) := by decide

/-- A LOADING station at a transaction. -/
def loading (step : LoadStep) (address count : Nat) : State :=
  State.reset.withLoader
    { Loader.reset with station := .loading, loadStep := step, spi := some { address := address, count := count } }

/-- 11.5: the signature block with three headers. -/
theorem test_signature :
    view (fun t => t.loader.spi)
      (exec (.signatureBlockRead #v[0x4E, 0x58, 0x32, 0x34, 1, 3, 0, 0]) (loading .signature 0 8))
      = some (some { address := 8, count := 24 }) := by decide

/-- 11.5: a data-in pin held high ends the load in LISTEN_ONLY with the fault pin low. -/
theorem test_signature_fault :
    view (fun t => (t.loader.station, t.loader.faultLow, t.loader.spi))
      (exec (.signatureBlockRead (Vector.replicate 8 0xFF)) (loading .signature 0 8))
      = some (.listenOnly, true, none) := by decide

/-- 11.5: the three headers; the schedule table is read next, 204 bytes from 256. -/
theorem test_headers :
    view (fun t => t.loader.spi)
      (exec (.headersRead [2, 1, 0, 51, 0, 1, 0, 0,  1, 1, 0, 24, 0, 0, 0x40, 0,  1, 7, 0, 0, 0xFF, 0xFF, 0xFF, 0])
        (loading .headers 8 24)) = some (some { address := 256, count := 204 }) := by decide

/-- 11.5, schedules 0 and 1 in small: one phase with Se 10, Sw 12, valid; one with Se = 6, absent. -/
theorem test_schedules :
    let entry (se : Byte) : List Byte := [1, 0, 0, 0,  0, 3, se, 12, 2, 0, 1, 0] ++ List.replicate 56 0
    view (fun t => (t.loader.spi, t.loader.loadStep))
      (exec (.scheduleTableRead (entry 10 ++ entry 6))
        (loading (.scheduleTable { revision := 1, length := 34, pointer := 256 } { revision := 1, length := 24, pointer := 64 })
          256 136))
      = some (some { address := 64, count := 96 },
          .profileTable ((Vector.replicate 8 none).set 0
            (some [{ length := 3, se := 10, sw := 12, mode := .decision, leak := 0, farAdapt := true }]))
            { revision := 1, length := 24, pointer := 64 }) := by
  decide +kernel

/-- 11.5, profiles 0 and 2 in small: rate code 2, Nn 16, Nf 0, Ne 32 under schedule 0 is valid with load 154, and Ne 33 is
absent. -/
theorem test_profiles :
    let entry (ne : Byte) : List Byte :=
      [2, 1, 3, 0xE8, 16, 0, ne, 0, 4, 1, 1, 0, 0, 0, 0, 0,  0, 0, 0, 9,  0, 0, 0, 8,  0, 0, 0, 1,  0, 0, 0, 2]
    let table : Vector (Option (List Phase)) 8 := (Vector.replicate 8 none).set 0 (some [smallPhase])
    view (fun t => (t.loader.station, (t.loader.profiles[(0 : Fin 16)]).map fun p => (p.load, p.grid), t.loader.profiles[(1 : Fin 16)].isSome))
      (exec (.profileTableRead (entry 32 ++ entry 33))
        (loading (.profileTable table { revision := 1, length := 16, pointer := 64 }) 64 64))
      = some (.unsynced, some (154, 1000), false) := by decide

/-- Table 10-1. -/
theorem test_load_points :
    loadPoints 24 16 48 3200 = 410 ∧ loadPoints 16 0 32 2400 = 154 ∧ loadPoints 64 64 64 3200 = 1024 ∧
    loadPoints 1 0 2 1200 = 5 ∧ loadPoints 8 16 24 1600 = 116 := by decide

/-! ### Witnesses: for each statement of Obligations.lean that has hypotheses, states and operands that meet them, clause by
clause, at the boundaries of their ranges -/

/-- A check of every LIVE context. -/
def eachLive (s : State) (f : CtxNum → Call → Bool) : Bool :=
  (List.finRange 24).all fun n => match s.contexts[n] with
    | .live d => f n d
    | .free => true
    | .releasing _ => true

theorem eachLive_sound {s : State} {f : CtxNum → Call → Bool} (h : eachLive s f = true) (n : CtxNum) (d : Call)
    (hd : s.contexts[n] = .live d) : f n d = true := by
  have := List.all_eq_true.1 h n (List.mem_finRange n)
  rw [hd] at this
  exact this

/-- No LIVE context but `i` is on the lane. -/
theorem only_owner {s : State} {lane : Lane} {i : CtxNum}
    (h : eachLive s (fun n d => d.lane != lane || n == i) = true) (n : CtxNum) (d : Call)
    (hd : s.contexts[n] = .live d) (hl : d.lane = lane) : n = i := by
  have := eachLive_sound h n d hd
  simpa [hl] using this

/-- A wait list is exact when its contexts are those of the WAITING far sections and no RELEASING context waits. -/
theorem waitListExact_of {s : State} (h1 : (s.history.waitList.map Prod.fst).Nodup)
    (h2 : (List.finRange 24).all (fun i => match s.contexts[i] with
      | .live c => decide (i ∈ s.history.waitList.map Prod.fst) == c.far.isWaiting
      | .free => !decide (i ∈ s.history.waitList.map Prod.fst)
      | .releasing c => !decide (i ∈ s.history.waitList.map Prod.fst) && !c.far.isWaiting) = true) : s.WaitListExact := by
  refine ⟨h1, fun i => ?_, fun i c hc => ?_⟩
  · have := List.all_eq_true.1 h2 i (List.mem_finRange i)
    cases hc : s.contexts[i] with
    | free => rw [hc] at this; simpa using this
    | live c => rw [hc] at this; simp only [beq_iff_eq] at this; simp [← this]
    | releasing c => rw [hc] at this; simp at this; simpa using this.1
  · have := List.all_eq_true.1 h2 i (List.mem_finRange i)
    rw [hc] at this; simp at this; exact this.2

/-- The station with a job for context `i` in the engine. -/
def onJob (s : State) (i : CtxNum) (e : Entry) : State := { s with engine := { s.engine with job := some { context := i, entry := e } } }

/-- A FREEZE entry. -/
def freezeEntry : ControlEntry := { kind := 1, bytes := Vector.replicate 17 0 }

/-- A station with one call, on lane 17. -/
def one : State := station [newCall 17 smallProfile]

/-- A ring of two pages whose fill count is at D + Nf. -/
def fullRing : Ring := { delay := 112, pages := [4, 5], writeIndex := 0, fill := 128 }

/-- A station with a far section ACTIVE in context 0 and one WAITING in context 1. -/
def twoFar : State :=
  let s := station [{ newCall 6 farProfile with far := .active fullRing }, { newCall 9 farProfile with far := .waiting 100 }]
  s.withHistory { cells := [], freePages := [3], waitList := [(1, 2)] }

theorem witness_StepRunsFrontCommand : ({ State.reset with pending := [.freeze] } : State).pending = .freeze :: [] := rfl

theorem witness_WatchTimerCountsPeriods :
    State.reset.pending = [] ∧ State.reset.highway.watch = none ∧
    (one.withHighway { one.highway with watch := some 65534 }).pending = [] ∧ 65534 + 1 < 65536 ∧ 65536 ≤ 65535 + 1 ∧
    (unsynced 10).loader.station = .unsynced := by decide

theorem witness_DownstreamHalfReadsBack :
    ∀ c ∈ [.sampleArrival 63 15 (Vector.replicate 17 1), .controlArrival 0 15 (Vector.replicate 17 1), .announce 63 15,
        .release 63, .idleArrival 63 0, .idleArrival 63 5, .idleArrival 63 15],
      Instr.wellFormed c = true ∧ (halfOfCommand c).isSome = true := by decide

/-- Records that differ in unread bits alone, without and with a reference. -/
theorem witness_UnreadSampleBitsHaveNoEffect :
    (∀ a ∈ [(0xFC : Byte), 0x00], a.getLsbD 0 = false ∧ a.getLsbD 1 = false) ∧ (0x01 : Byte).getLsbD 0 = true ∧
    (Vector.replicate 17 0 : Vector Byte 17) ≠ (Vector.replicate 17 0).set 16 1 := by decide

theorem witness_StrapParityDecidesTheLoad :
    State.reset.loader.station = .reset ∧ strapParityGood 15 true = true ∧ strapParityGood 15 false = false := by decide

theorem witness_SignatureBlockIsChecked :
    (loading .signature 0 8).loader.loadStep = .signature ∧
    (∀ h ∈ [(1 : Byte), 4], signatureGood #v[0x4E, 0x58, 0x32, 0x34, 1, h, 0, 0] = true) ∧
    (∀ h ∈ [(0 : Byte), 5], signatureGood #v[0x4E, 0x58, 0x32, 0x34, 1, h, 0, 0] = false) := by decide

/-- Two headers, of kinds 2 and 1, the first with an extent that ends at 2^24 (low byte FC) or 4 beyond it (low byte 00,
length 4 more). -/
def twoHeaders (lengthLow : Byte) (kind : Byte) : List Byte :=
  [2, 1, 0, lengthLow, 0xFF, 0xFF, 0xFC, 0, kind, 1, 0, 8, 0, 0, 0x40, 0]

theorem witness_HeadersAreChecked :
    (loading .headers 8 16).loader.loadStep = .headers ∧
    (loading .headers 8 16).loader.spi = some { address := 8, count := 16 } ∧ (twoHeaders 1 1).length = 16 ∧
    byteAt (twoHeaders 1 1) 0 = 2 ∧ byteAt (twoHeaders 1 1) 8 = 1 ∧
    threeBytesAt (twoHeaders 1 1) 4 + 4 * twoBytesAt (twoHeaders 1 1) 2 = 16777216 ∧
    threeBytesAt (twoHeaders 2 1) 4 + 4 * twoBytesAt (twoHeaders 2 1) 2 = 16777220 ∧
    ∀ n < (twoHeaders 1 3).length / 8, byteAt (twoHeaders 1 3) (8 * n) ≠ 1 := by decide

theorem witness_SchedulesAreChecked :
    let s := loading (.scheduleTable { revision := 1, length := 17, pointer := 256 } { revision := 1, length := 8, pointer := 64 })
      256 68
    s.loader.spi = some { address := 256, count := 68 } ∧
    (scheduleAt ([1, 0, 0, 0, 0, 3, 8, 6, 2, 15, 1, 0] ++ List.replicate 56 0) 0).isSome = true ∧
    (scheduleAt ([1, 0, 0, 0, 0, 3, 7, 6, 2, 15, 1, 0] ++ List.replicate 56 0) 0).isSome = false ∧
    (scheduleAt ([9, 0, 0, 0, 0, 3, 8, 6, 2, 15, 1, 0] ++ List.replicate 56 0) 0).isSome = false := by decide

/-- A profile entry at the ends of its ranges: 8 levels with grid 4681 (7 × 4681 = 32767), Nn 64, Nf 64, Ne 64, 1024 load
points. -/
def edgeProfile : List Byte :=
  [5, 2, 0x12, 0x49, 64, 64, 64, 0, 12, 1, 4, 2, 0, 0, 0, 0,  0, 0, 0, 8,  0, 0, 0, 8,  0, 0, 0, 1,  0, 0, 0, 2]

/-- A table with a schedule in its first entry. -/
def oneSchedule : Vector (Option (List Phase)) 8 := (Vector.replicate 8 none).set 0 (some [smallPhase])

theorem witness_ProfilesAreChecked :
    (profileAt oneSchedule edgeProfile 0).map (fun p => p.load) = some 1024 ∧
    (profileAt oneSchedule (edgeProfile.set 3 0x4A) 0).isSome = false := by decide

theorem witness_LoadEndInstallsTheTables :
    let s := loading (.profileTable oneSchedule { revision := 1, length := 8, pointer := 64 }) 64 32
    s.loader.spi = some { address := 64, count := 32 } ∧ edgeProfile.length = 32 ∧
    view (fun t => t.loader.station) (exec (.profileTableRead edgeProfile) s) = some .unsynced ∧
    view (fun t => t.loader.station) (exec (.profileTableRead (List.replicate 32 0)) s) = some .listenOnly := by decide

theorem witness_FrameMarksAndHeadersAreFollowed :
    (unsynced 63).loader.station = .unsynced ∧ (unsynced 63).highway.goodFrames = 63 ∧
    (unsynced 63).highway.lapsed = false ∧ one.loader.station = .active ∧ one.highway.lapsed = false := by decide

/-- A station with a job, for a LIVE and for a RELEASING context, and a WAITING one. -/
theorem witness_HighwayLossReleasesEveryCall :
    let s := onJob twoFar 0 (.control freezeEntry)
    s.loader.station = .active ∧ s.engine.job.map (fun j => j.context) = some 0 ∧ s.contexts[(0 : Fin 24)].isLive = true ∧
    s.WaitListExact ∧
    (s.setContext 0 (.releasing (newCall 6 farProfile))).contexts[(0 : Fin 24)] = .releasing (newCall 6 farProfile) := by
  refine ⟨by decide, by decide, by decide, waitListExact_of (by decide) (by decide), by decide⟩

/-- Off the highway, and ACTIVE after a missing mark. -/
theorem witness_OffTheHighwayNothingIsTaken :
    (unsynced 0).loader.station ≠ .active ∧
    (one.withHighway { one.highway with lapsed := true }).loader.station = .active ∧
    (one.withHighway { one.highway with lapsed := true }).highway.lapsed = true ∧ State.reset.loader.station = .reset ∧
    (loading .signature 0 8).loader.station = .loading := by decide

theorem witness_RoundStartBidsExactlyWhenEligible :
    (station []).loader.station = .active ∧ (station []).highway.lapsed = false ∧
    (station []).highway.frameNumber = some 12 ∧ (station []).adoption.freeLoad ≤ 4096 := by decide

theorem witness_HighestBidSurvives : (0x1FFFFFFFFF : BitVec 37) ∈ [(0 : BitVec 37), 0x1FFFFFFFFF] := by decide

/-- A station that bid for lane 12 with a value. -/
def bidding (value : BitVec 37) : State :=
  one.withAdoption { one.adoption with bid := some { lane := 12, profile := 0, value := value } }

theorem witness_RoundWonAdoptsTheCall :
    (bidding 7).loader.station = .active ∧ (bidding 7).highway.lapsed = false ∧
    staysIn (contendBits (7 : BitVec 37)) (contendBits (6 : BitVec 37)) = true ∧
    (bidding 7).loader.profiles[(0 : Fin 16)] = some farProfile ∧ (bidding 7).contexts[(1 : Fin 24)] = .free ∧
    ∀ j : CtxNum, j < 1 → (bidding 7).contexts[j] ≠ .free := by decide

theorem witness_RoundLostFollowsTheConfirm :
    staysIn (contendBits (7 : BitVec 37)) (contendBits (8 : BitVec 37)) = false ∧ (bidding 7).adoption.bid.isSome = true ∧
    (0b10000 : BitVec 5).getMsbD 0 = true ∧ (0b01111 : BitVec 5).getMsbD 0 = false ∧
    one.adoption.bid = none ∧ one.highway.frameNumber = some 12 := by decide

theorem witness_SampleTagsAtArrival :
    (newCall 0 smallProfile).lastSequence = none ∧
    ({ newCall 0 smallProfile with lastSequence := some 15 } : Call).lastSequence = some 15 := by decide

/-- A station with a job, whose owner of lane 17 has 2 entries queued, and one where it has 3. -/
theorem witness_ArrivalIsQueuedOrOverruns :
    ∀ n ∈ [2, 3], let s := queued 0 (List.replicate n (.sample entry381))
      s.loader.station = .active ∧ s.highway.lapsed = false ∧ s.engine.job.isSome = true ∧
      (∃ c, s.contexts[(0 : Fin 24)] = .live c ∧ c.lane = 17 ∧ c.inputQueue.length = n) ∧
      ∀ (i : CtxNum) (d : Call), s.contexts[i] = .live d → d.lane = 17 → i = 0 := by
  intro n hn
  simp only [List.mem_cons, List.not_mem_nil, or_false] at hn
  rcases hn with rfl | rfl
  · exact ⟨by decide, by decide, by decide, ⟨_, rfl, rfl, rfl⟩, only_owner (by decide)⟩
  · exact ⟨by decide, by decide, by decide, ⟨_, rfl, rfl, rfl⟩, only_owner (by decide)⟩

theorem witness_IdleEngineTakesTheArrival :
    one.loader.station = .active ∧ one.highway.lapsed = false ∧ one.contexts[(0 : Fin 24)] = .live (newCall 17 smallProfile) ∧
    (∀ (i : CtxNum) (d : Call), one.contexts[i] = .live d → d.lane = 17 → i = 0) ∧ one.engine.job = none ∧
    ∀ (i : CtxNum) (d : Call), one.contexts[i] = .live d → d.inputQueue = [] :=
  ⟨by decide, by decide, by decide, only_owner (by decide), by decide,
    fun i d h => by simpa using eachLive_sound (f := fun _ d => d.inputQueue == []) (by decide) i d h⟩

theorem witness_HalvesInAnUnownedLane :
    one.loader.station = .active ∧ one.highway.lapsed = false ∧
    ∀ (i : CtxNum) (d : Call), one.contexts[i] = .live d → d.lane ≠ 63 :=
  ⟨by decide, by decide, fun i d h => by
    simpa using eachLive_sound (f := fun _ d => d.lane != 63) (by decide) i d h⟩

/-- Each clause: on the engine's job and not, WAITING and not. -/
theorem witness_ReleaseOfAnOwnedLane :
    twoFar.loader.station = .active ∧ twoFar.highway.lapsed = false ∧
    (∀ (i : CtxNum) (d : Call), twoFar.contexts[i] = .live d → d.lane = 6 → i = 0) ∧
    (∀ (i : CtxNum) (d : Call), twoFar.contexts[i] = .live d → d.lane = 9 → i = 1) ∧
    (∀ i : CtxNum, (onJob twoFar i (.control freezeEntry)).engine.job.map (fun j => j.context) = some i) ∧
    twoFar.engine.job = none ∧ (FarSection.active fullRing).isWaiting = false ∧ (FarSection.waiting 100).isWaiting = true :=
  ⟨by decide, by decide, only_owner (by decide), only_owner (by decide), fun _ => rfl, by decide, by decide, by decide⟩

/-- A wait list whose head cannot be granted, and one whose head just can. -/
theorem witness_GrantRuleServesTheHead :
    twoFar.WaitListExact ∧ (twoFar.withHistory { twoFar.history with freePages := [3, 8] }).WaitListExact :=
  ⟨waitListExact_of (by decide) (by decide), waitListExact_of (by decide) (by decide)⟩

/-- A station whose two LIVE contexts, on lanes 5 and 62, both have an entry waiting. -/
def twoBusy : State :=
  { station [{ newCall 5 smallProfile with inputQueue := [.sample entry381] },
      { newCall 62 smallProfile with inputQueue := [.sample entry381] }] with
    engine := { job := none, lastServed := 20 } }

theorem witness_EngineTakesLanesInTurn :
    twoBusy.LanesOwnedOnce ∧ twoBusy.engine.job = none ∧
    (∃ c, twoBusy.contexts[(1 : Fin 24)] = .live c ∧ c.inputQueue = [.sample entry381] ∧
      ∀ (j : CtxNum) (d : Call), twoBusy.contexts[j] = .live d → d.inputQueue ≠ [] →
        (c.lane - (twoBusy.engine.lastServed + 1)).val ≤ (d.lane - (twoBusy.engine.lastServed + 1)).val) ∧
    (onJob one 0 (.control freezeEntry)).engine.job.isSome = true := by
  have lanes : ∀ (i : CtxNum) (c : Call), twoBusy.contexts[i] = .live c → (i = 0 ∧ c.lane = 5) ∨ (i = 1 ∧ c.lane = 62) :=
    fun i c h => by
      simpa using eachLive_sound (f := fun i c => (i == 0 && c.lane == 5) || (i == 1 && c.lane == 62)) (by decide) i c h
  refine ⟨⟨fun i j c d hi hj e => ?_, fun k n h => by simp [twoBusy, station, Adoption.reset] at h, fun b h => by cases h⟩,
    rfl, ⟨_, rfl, rfl, fun j d h _ => ?_⟩, rfl⟩
  · rcases lanes i c hi with ⟨rfl, h1⟩ | ⟨rfl, h1⟩ <;> rcases lanes j d hj with ⟨rfl, h2⟩ | ⟨rfl, h2⟩ <;>
      first | rfl | (rw [h1, h2] at e; exact absurd e (by decide))
  · rcases lanes j d h with ⟨-, h2⟩ | ⟨-, h2⟩ <;> rw [h2] <;> decide

/-- A RELEASING context under the engine's job, for a SAMPLE and for a CONTROL. -/
theorem witness_ReleasingCompletionIsDiscarded :
    ∀ e ∈ [Entry.sample entry381, .control freezeEntry],
      (onJob (one.setContext 0 (.releasing (newCall 17 smallProfile))) 0 e).engine.job = some { context := 0, entry := e } ∧
      (onJob (one.setContext 0 (.releasing (newCall 17 smallProfile))) 0 e).contexts[(0 : Fin 24)]
        = .releasing (newCall 17 smallProfile) := by decide

/-- With a gate that the entry closes by carrying the signal monitor to PRESENT, and with the hold set. -/
theorem witness_SampleCompletionFrame :
    (let c := newCall 17 { smallProfile with gate := .internal, tOn := 0, tOff := 0 }
     c.signalState = .absent ∧ (sampleStages smallPhase 2 entry381 c []).complete.signalState = .present) ∧
    (sampleStages smallPhase 2 entry381 { newCall 17 smallProfile with hold := true } []).complete.hold = true ∧
    (onJob one 0 (.sample entry381)).engine.job = some { context := 0, entry := .sample entry381 } ∧
    one.contexts[(0 : Fin 24)] = .live (newCall 17 smallProfile) ∧
    one.loader.schedules[(newCall 17 smallProfile).settings.schedule] = some [smallPhase, { smallPhase with length := 4 }] ∧
    [smallPhase, { smallPhase with length := 4 }][(newCall 17 smallProfile).phase]? = some smallPhase := by decide

/-- The largest delay that two pages hold for Nf = 16. -/
theorem witness_FarWindowIsTheDelayedSymbols :
    ([4, 5] : List Page).Nodup ∧ 112 + 16 ≤ 64 * ([4, 5] : List Page).length ∧ 1 ≤ 16 ∧
    112 + 16 ≤ (List.replicate 128 (cx 1 2 : Sample)).length :=
  ⟨by decide, by decide, by decide, by simp⟩

/-- A far section ACTIVE in a call whose lines and taps have their lengths. -/
def farCall : Call := { newCall 0 farProfile with far := .active fullRing }

/-- Rings before a write: FILLING one symbol short of D + Nf and two short, and ACTIVE at the ring's end; and no ring. -/
theorem witness_LinesAndStampAdvance :
    let r : Ring := { fullRing with writeIndex := 127 }
    r.writeIndex < 64 * r.pages.length ∧ r.fill ≤ 64 * r.pages.length ∧ farCall.far = .active fullRing ∧
    (historyStages entry381 { farCall with far := .filling { r with fill := 127 } } []).latched = [.farActive] ∧
    (historyStages entry381 { farCall with far := .filling { r with fill := 126 } } []).latched = [] ∧
    (newCall 0 smallProfile).far = .absent := by decide

theorem witness_ReplicaAndResidual :
    (newCall 0 smallProfile).far = .absent ∧ farCall.far = .active fullRing ∧
    farCall.nearLine.length = farCall.settings.nn ∧ farCall.nearTaps.length = 2 * farCall.settings.nn ∧
    farCall.farTaps.length = 2 * farCall.settings.nf := by decide

theorem witness_SoftSymbolAndError : call582.Shaped ∧ 2 ≤ call582.settings.ne := by
  unfold Call.Shaped; decide

theorem witness_RoundingAndSaturation : 1 ≤ 1 ∧ roundShift 1 (-1) = 0 := by decide

/-- Four levels, and sixteen with the largest grid. -/
theorem witness_DecisionIsTheNearestLevel :
    smallProfile.inRange = true ∧ ({ smallProfile with levelsCode := 3, grid := 2184 } : Profile).inRange = true := by decide

/-- Powers at their bounds, and monitors on and off. -/
theorem witness_MonitorsFollowTheirPowers :
    ({ newCall 0 smallProfile with signalPower := 2 ^ 31 + 2 ^ 4 } : Call).signalPower ≤ 2 ^ 31 + 2 ^ smallProfile.ks ∧
    ({ newCall 0 smallProfile with errorPower := 2 ^ 32 - 1 } : Call).errorPower < 2 ^ 32 ∧ 1 ≤ smallProfile.kq ∧
    smallProfile.kq ≤ 12 ∧ retrainCall.settings.errorRise = true ∧ smallProfile.errorRise = false ∧
    smallProfile.errorFall = false := by decide

/-- An entry that may adapt the echo taps, with the far section ACTIVE, and one that may not. -/
theorem witness_EchoTapsAdaptOnlyWhenPermitted :
    farCall.Shaped ∧ farCall.frozen = false ∧ farCall.paused = false ∧ entry381.clipped = false ∧ smallPhase.se ≠ 0 ∧
    farCall.settings.gate = .pump ∧ entry381.quiet = true ∧ smallPhase.farAdapt = true ∧ farCall.far = .active fullRing ∧
    0 < farCall.settings.nn ∧ 15 < farCall.settings.nf ∧ ({ farCall with frozen := true } : Call).frozen = true := by
  unfold Call.Shaped; decide

theorem witness_EqualizerTapsAdaptOnlyWhenPermitted :
    call582.Shaped ∧ call582.frozen = false ∧ call582.paused = false ∧ call582.hold = false ∧ entry381.clipped = false ∧
    smallPhase.sw ≠ 0 ∧ smallPhase.mode = .decision ∧ 3 < call582.settings.ne ∧
    ({ call582 with hold := true } : Call).hold = true := by
  unfold Call.Shaped; decide

theorem witness_LeakMovesTowardsZero :
    15 ≤ 15 ∧ (-2 ^ (15 - 1) ≤ (-16384 : Int)) ∧ ((16383 : Int) ≤ 2 ^ (15 - 1) - 1) ∧ leakPart 15 (-16384) = -16384 ∧
    leakPart 15 16383 = 16383 := by decide

/-- The cursor one record before the end of phase 0 of 2, at the end of the last phase, past it, and in a phase of length
0 at its greatest count. -/
theorem witness_ScheduleCursorAdvances :
    smallPhase.length = 3 ∧ 2 + 1 = smallPhase.length ∧ 0 + 1 < 2 ∧ 2 ≤ 1 + 1 ∧ 1 + 1 < smallPhase.length ∧
    smallPhase.length ≤ 3 ∧ ({ smallPhase with length := 0 } : Phase).length = 0 ∧ 65534 < 65535 ∧
    ({ newCall 0 smallProfile with frozen := true } : Call).frozen = true ∧ (newCall 0 smallProfile).frozen = false ∧
    (newCall 0 smallProfile).paused = false := by decide

/-- Output queues of 3 and of 4. -/
theorem witness_ResultEntersTheOutputQueue :
    let r : ResultEntry := { soft := cx 0 0, decision := cx 0 0, error := cx 0 0, stamp := 7 }
    (List.replicate 3 r).length < 4 ∧ List.replicate 4 r = r :: List.replicate 3 r ∧ (List.replicate 3 r).length = 3 := by
  decide

theorem witness_LatchFollowsTheReportMode :
    ({ newCall 0 smallProfile with conditions := 8 } : Call).isPending .gap = true ∧
    (newCall 0 smallProfile).isPending .gap = false := by decide

/-- The lowest and the highest code pending, and none. -/
theorem witness_StatusCodeIsTheSmallestPending :
    (∀ x ∈ Condition.inPriority, (newCall 0 smallProfile).isPending x = false) ∧
    ({ newCall 0 smallProfile with conditions := 0x40001 } : Call).isPending .diverged = true ∧
    ({ newCall 0 smallProfile with conditions := 0x40000 } : Call).isPending .exportDone = true := by decide

/-- A control in the engine for the LIVE context 0, whose call is `c`: the hypotheses that the statements about controls
share. -/
def Meets (c : Call) (kind : BitVec 4) (bytes : List Byte) : Prop :=
  (working (station [c]) kind bytes).engine.job = some
    { context := 0, entry := .control ({ kind := kind, bytes := Vector.ofFn fun i => bytes[i.val]?.getD 0 }) } ∧
  (working (station [c]) kind bytes).contexts[(0 : Fin 24)] = .live c

theorem meets (c : Call) (kind : BitVec 4) (bytes : List Byte) : Meets c kind bytes := by
  constructor
  · simp only [working]
  · simp [working, station]

/-- The kinds 1 and 2, and the kinds at the ends of the unknown ones. -/
theorem witness_FreezeThawAndUnknownControls :
    Meets (newCall 17 smallProfile) 1 [] ∧ Meets (newCall 17 smallProfile) 2 [] ∧ Meets (newCall 17 smallProfile) 0 [] ∧
    Meets (newCall 17 smallProfile) 9 [] ∧ 9 ≤ (9 : BitVec 4).toNat ∧ Meets (newCall 17 smallProfile) 15 [] :=
  ⟨meets _ _ _, meets _ _ _, meets _ _ _, meets _ _ _, by decide, meets _ _ _⟩

theorem witness_RetrainRestartsTheSchedule :
    (Meets (newCall 0 smallProfile) 3 [3] ∧ (newCall 0 smallProfile).exportRun = none) ∧
    (Meets retrainCall 3 [0] ∧ retrainCall.exportRun.isSome = true) :=
  ⟨⟨meets _ _ _, by decide⟩, ⟨meets _ _ _, by decide⟩⟩

/-- A call with a far section in a given far state, Nf = 16. -/
def farIn (f : FarSection) : Call := { newCall 0 farProfile with far := f }

/-- Nf = 16: the delay 4080 (0FF0 hex) is the largest taken, 4081 is refused; 112 (70 hex) is the largest that two pages
hold; every far state. -/
theorem witness_FarDelayTakesKeepsOrRefuses :
    (Meets (newCall 0 smallProfile) 4 [0, 0] ∧ (newCall 0 smallProfile).far = .absent) ∧
    (Meets (farIn .unset) 4 [0x0F, 0xF1] ∧ 4096 < 4081 + (farIn .unset).settings.nf) ∧
    (Meets (farIn .unset) 4 [0x0F, 0xF0] ∧ 4080 + (farIn .unset).settings.nf ≤ 4096 ∧
      (station [farIn .unset]).history.waitList = [] ∧
      (station [farIn .unset]).history.freePages = List.finRange 256 ∧ (4080 + 16 + 63) / 64 ≤ 256) ∧
    (Meets (farIn (.active fullRing)) 4 [0, 0x70] ∧ (112 + 16 + 63) / 64 ≤ fullRing.pages.length ∧ 112 + 16 ≤ fullRing.fill) ∧
    (Meets (farIn (.filling { fullRing with fill := 127 })) 4 [0, 0x70] ∧ 127 < 112 + 16) ∧
    (Meets (farIn (.filling { fullRing with fill := 127 })) 4 [0, 0x6F] ∧ 111 + 16 ≤ 127) ∧
    (Meets (farIn (.active fullRing)) 4 [0, 0x71] ∧ fullRing.pages.length < (113 + 16 + 63) / 64) ∧
    Meets (farIn (.waiting 112)) 4 [0, 0x70] :=
  ⟨⟨meets _ _ _, by decide⟩, ⟨meets _ _ _, by decide⟩, ⟨meets _ _ _, by decide, by simp only [station, State.reset, History.reset],
      by simp only [station, State.reset, History.reset], by decide⟩,
    ⟨meets _ _ _, by decide⟩, ⟨meets _ _ _, by decide⟩, ⟨meets _ _ _, by decide⟩, ⟨meets _ _ _, by decide⟩, meets _ _ _⟩

/-- A FAR_DELAY in UNSET while another context waits. -/
theorem witness_FarDelay_waits :
    let s := working ((station [farIn .unset, farIn (.waiting 112)]).withHistory
      { cells := [], freePages := [3], waitList := [(1, 2)] }) 4 [0, 0]
    (s.engine.job.map fun j => j.context) = some 0 ∧ s.contexts[(0 : Fin 24)] = .live (farIn .unset) ∧
    s.history.waitList ≠ [] ∧ 0 + farProfile.nf ≤ 4096 := by decide

theorem witness_FarOffReturnsThePages :
    Meets (newCall 0 smallProfile) 5 [] ∧ Meets (farIn .unset) 5 [] ∧ Meets (farIn (.waiting 112)) 5 [] ∧
    Meets (farIn (.filling fullRing)) 5 [] ∧ Meets (farIn (.active fullRing)) 5 [] :=
  ⟨meets _ _ _, meets _ _ _, meets _ _ _, meets _ _ _, meets _ _ _⟩

theorem witness_ClearRemovesTheNamedConditions : Meets retrainCall 6 [0xFF, 0xFF, 0xFF] := meets _ _ _

/-- A first segment at the end of the NEAR section of 2, one past it, and a code that names no section. -/
theorem witness_ExportSetsUpItsRecord :
    (Meets (newCall 0 smallProfile) 7 [0, 1, 0, 1] ∧ sectionCode .near = (0 : Byte) ∧ 1 < (newCall 0 smallProfile).settings.nn) ∧
    (Meets (newCall 0 smallProfile) 7 [0, 2, 0, 1] ∧ (newCall 0 smallProfile).settings.nn ≤ 2) ∧
    (Meets (newCall 0 smallProfile) 7 [3, 0, 0, 0] ∧ 3 ≤ (3 : Byte).toNat) ∧
    Meets retrainCall 7 [2, 0, 255, 0] ∧ retrainCall.exportRun.isSome = true :=
  ⟨⟨meets _ _ _, by decide⟩, ⟨meets _ _ _, by decide⟩, ⟨meets _ _ _, by decide⟩, meets _ _ _, by decide⟩

/-- The last segment of each section, the first past it, a code that names no section, and a context that is not frozen. -/
theorem witness_ImportWritesTwoTapsOrIsRefused :
    let c : Call := { newCall 0 farProfile with frozen := true }
    (Meets c 8 [0, 1] ∧ c.frozen = true ∧ 1 < c.settings.nn) ∧ (Meets c 8 [1, 15] ∧ 15 < c.settings.nf) ∧
    (Meets c 8 [2, 1] ∧ 1 < c.settings.ne / 2) ∧ (Meets c 8 [0, 2] ∧ c.settings.nn ≤ 2) ∧
    (Meets c 8 [1, 16] ∧ c.settings.nf ≤ 16) ∧ (Meets c 8 [2, 2] ∧ c.settings.ne / 2 ≤ 2) ∧ Meets c 8 [3, 0] ∧
    (Meets (newCall 0 farProfile) 8 [0, 0] ∧ (newCall 0 farProfile).frozen = false) :=
  ⟨⟨meets _ _ _, by decide⟩, ⟨meets _ _ _, by decide⟩, ⟨meets _ _ _, by decide⟩, ⟨meets _ _ _, by decide⟩,
    ⟨meets _ _ _, by decide⟩, ⟨meets _ _ _, by decide⟩, meets _ _ _, ⟨meets _ _ _, by decide⟩⟩

theorem witness_UpstreamWriteChoosesOneRecord :
    one.loader.station = .active ∧ one.highway.lapsed = false ∧ one.contexts[(0 : Fin 24)] = .live (newCall 17 smallProfile) ∧
    (∀ (i : CtxNum) (d : Call), one.contexts[i] = .live d → d.lane = 17 → i = 0) ∧
    (newCall 17 smallProfile).outputQueue = [] ∧ ({ newCall 17 smallProfile with statusDue := true } : Call).statusDue = true ∧
    (newCall 17 smallProfile).statusDue = false ∧ retrainCall.exportRun.isSome = true ∧
    (newCall 17 smallProfile).exportRun = none ∧
    ∀ (i : CtxNum) (d : Call), one.contexts[i] = .live d → d.lane ≠ 63 :=
  ⟨by decide, by decide, by decide, only_owner (by decide), by decide, by decide, by decide, by decide, by decide,
    fun i d h => by simpa using eachLive_sound (f := fun _ d => d.lane != 63) (by decide) i d h⟩

/-! The invariants: an ACTIVE station with two calls, an export, a far section ACTIVE and a job, which meets each of them, and
its next step. -/

/-- The station of the invariants' witnesses. -/
def sound : State :=
  let s := station [{ newCall 6 farProfile with far := .active { fullRing with writeIndex := 3 } },
    { newCall 9 farProfile with exportRun := some { part := .eq, next := 1, last := 1, consistent := true } }]
  onJob (s.withHistory { cells := [], freePages := (List.finRange 256).filter fun p => p != 4 && p != 5, waitList := [] }) 0
    (.control freezeEntry)

theorem sound_step :
    Sys2Proof.Machine.step sound = .next (sound.withHighway { sound.highway with watch := some 1 }) := by
  have h1 : sound.pending = [] := by unfold sound onJob State.withHistory station; rfl
  have h2 : sound.highway.watch = some 0 := by unfold sound onJob State.withHistory station; rfl
  simp [Sys2Proof.Machine.step, tick, h1, h2]

/-- What a context of `sound` is. -/
theorem sound_contexts (i : CtxNum) :
    (i = 0 ∧ sound.contexts[i] = .live { newCall 6 farProfile with far := .active { fullRing with writeIndex := 3 } }) ∨
    (i = 1 ∧ sound.contexts[i] = .live { newCall 9 farProfile with
      exportRun := some { part := .eq, next := 1, last := 1, consistent := true } }) ∨
    sound.contexts[i] = .free := by
  revert i
  decide

/-- A property of calls that the two calls of `sound` have. -/
theorem sound_calls {Q : CtxNum → Call → Prop}
    (h0 : Q 0 { newCall 6 farProfile with far := .active { fullRing with writeIndex := 3 } })
    (h1 : Q 1 { newCall 9 farProfile with exportRun := some { part := .eq, next := 1, last := 1, consistent := true } })
    (i : CtxNum) (c : Call) (h : sound.contexts[i].call? = some c) : Q i c := by
  rcases sound_contexts i with ⟨rfl, e⟩ | ⟨rfl, e⟩ | e <;> rw [e] at h <;> cases h
  · exact h0
  · exact h1

theorem sound_live {i : CtxNum} {c : Call} (h : sound.contexts[i] = .live c) : sound.contexts[i].call? = some c := by rw [h]; rfl

theorem sound_not_releasing (i : CtxNum) (c : Call) : sound.contexts[i] ≠ .releasing c := by
  rcases sound_contexts i with ⟨-, e⟩ | ⟨-, e⟩ | e <;> rw [e] <;> simp

theorem witness_PagesStayAccounted : sound.PagesAccounted ∧ sound.HistoryCanonical := by
  refine ⟨?_, cellsWf_nil⟩
  unfold State.PagesAccounted
  decide +kernel

theorem witness_NoCommandStops : sound.CursorsInRange := by
  intro i c h
  exact sound_calls (Q := fun _ c => ∃ phases, sound.loader.schedules[c.settings.schedule] = some phases ∧ c.phase < phases.length)
    ⟨[smallPhase, { smallPhase with length := 4 }], by decide, by decide⟩
    ⟨[smallPhase, { smallPhase with length := 4 }], by decide, by decide⟩ i c h

theorem witness_FarSectionsStaySound : sound.WaitListExact ∧ sound.FarSound := by
  refine ⟨waitListExact_of (by decide) (by decide), fun i c h => ?_, fun i n h => by cases h⟩
  exact sound_calls (Q := fun _ c => c.FarSound) (show 1 ≤ 16 ∧ 2 ≤ 64 ∧ 128 ≤ 128 ∧ 3 < 128 ∧ 128 ≤ 128 by decide)
    (show 1 ≤ 16 by decide) i c h

theorem witness_LanesStayOwnedOnce : sound.LanesOwnedOnce := by
  refine ⟨fun i j c d hi hj e => ?_, fun k n h => by simp [sound, onJob, State.withHistory, station, Adoption.reset] at h,
    fun b h => by cases h⟩
  have key : ∀ (i : CtxNum) (c : Call), sound.contexts[i].call? = some c → (i = 0 ∧ c.lane = 6) ∨ (i = 1 ∧ c.lane = 9) :=
    sound_calls (.inl ⟨rfl, rfl⟩) (.inr ⟨rfl, rfl⟩)
  rcases key i c (sound_live hi) with ⟨rfl, h1⟩ | ⟨rfl, h1⟩ <;> rcases key j d (sound_live hj) with ⟨rfl, h2⟩ | ⟨rfl, h2⟩ <;>
    first | rfl | (rw [h1, h2] at e; exact absurd e (by decide))

theorem witness_LoadStaysAccounted : sound.LoadAccounted := by
  refine ⟨by decide +kernel, fun b h => by cases h⟩

theorem witness_EngineStaysConsistent : sound.EngineConsistent := by
  refine ⟨fun j h => ?_, fun i c h => absurd h (sound_not_releasing i c), fun h => by cases h⟩
  have e : sound.engine.job = some { context := 0, entry := .control freezeEntry } := rfl
  rw [e] at h
  cases h
  decide

theorem witness_StationStateRowsHold : sound.StationRow := by
  constructor <;> decide

theorem witness_ContextsFollowTheirTables : sound.ProfilesSound := by
  have only : ∀ (k : Fin 16) (p : Profile), sound.loader.profiles[k] = some p → p = farProfile := by
    intro k p h
    have : ∀ k : Fin 16, sound.loader.profiles[k] = none ∨ sound.loader.profiles[k] = some farProfile := by decide
    rcases this k with e | e <;> rw [e] at h <;> cases h
    rfl
  refine ⟨fun k p h => ?_, fun k p h => ?_, fun k p h => ?_, fun i c h => ?_, fun t n k phases h => by cases h⟩
  · rw [only k p h]; decide
  · rw [only k p h]; decide
  · rw [only k p h]; exact ⟨[smallPhase, { smallPhase with length := 4 }], by decide, by decide, by decide⟩
  · exact sound_calls (Q := fun _ c => sound.loader.profiles[c.profile] = some c.settings) (by decide) (by decide) i c h

theorem witness_ContextSizesStayInBounds :
    sound.QueuesBounded ∧ sound.HoldMeansDiverged ∧ sound.ContextsShaped ∧ sound.ExportsInRange ∧
    sound.ProfilesSound ∧ sound.PowersBounded := by
  refine ⟨⟨fun i c h => ?_, fun i c h => absurd h (sound_not_releasing i c)⟩, ?_, ?_, ?_, witness_ContextsFollowTheirTables, ?_⟩
  · refine sound_calls (Q := fun _ c => c.inputQueue.length ≤ 3 ∧ c.outputQueue.length ≤ 4) ?_ ?_ i c (sound_live h) <;> decide
  · exact sound_calls (fun h => by cases h) (fun h => by cases h)
  · refine sound_calls (Q := fun _ c => c.Shaped) ?_ ?_ <;> unfold Call.Shaped <;> decide
  · intro i c e h he
    refine sound_calls (Q := fun _ c => ∀ e, c.exportRun = some e → e.next ≤ e.last ∧ e.last < c.settings.segments e.part)
      (fun e he => by cases he) (fun e he => ?_) i c h e he
    cases he
    decide
  · refine sound_calls (Q := fun _ c => c.signalPower ≤ 2 ^ 31 + 2 ^ c.settings.ks ∧ c.errorPower < 2 ^ 32) ?_ ?_ <;> decide

end Sys2Proof.Tests
end

section
/-! The tags and values of a SAMPLE entry at its arrival (R13, R14, R166). -/

namespace Sys2Proof.Machine

/-! ### The gap count (R14) -/

theorem gapCount_none (q : BitVec 4) : gapCount none q = 0 := rfl

/-- The subtraction of four-bit words is R14's (sequence − last − 1) mod 16, with 15 for −1. -/
theorem gapCount_some_toNat (l q : BitVec 4) : (gapCount (some l) q).toNat = (q.toNat + 15 - l.toNat) % 16 := by
  simp only [gapCount]
  bv_omega

/-! ### CLIPPED (R13) -/

theorem fullScale_iff (v : BitVec 16) : fullScale v = true ↔ v.toInt = -32768 ∨ v.toInt = 32767 := by
  simp [fullScale]

theorem clippedTag_iff (enable : Bool) (r0 r1 : Sample) :
    clippedTag enable r0 r1 = true ↔
      enable = true ∧ ∃ v ∈ [r0.i, r0.q, r1.i, r1.q], v.toInt = -32768 ∨ v.toInt = 32767 := by
  simp [clippedTag, fullScale_iff, or_assoc]

/-! ### The entry (R12, R13, R166) -/

section Entry

variable (c : Call) (q : BitVec 4) (b : Vector Byte 17)

@[simp] theorem Call.sampleEntry_gap : (c.sampleEntry q b).gap = gapCount c.lastSequence q := rfl

@[simp] theorem Call.sampleEntry_symbol : (c.sampleEntry q b).symbol = ⟨b[1] ++ b[2], b[3] ++ b[4]⟩ := rfl

@[simp] theorem Call.sampleEntry_r0 : (c.sampleEntry q b).r0 = ⟨b[5] ++ b[6], b[7] ++ b[8]⟩ := rfl

@[simp] theorem Call.sampleEntry_r1 : (c.sampleEntry q b).r1 = ⟨b[9] ++ b[10], b[11] ++ b[12]⟩ := rfl

@[simp] theorem Call.sampleEntry_reference : (c.sampleEntry q b).reference =
    if b[0].getLsbD 0 then some ⟨b[13] ++ b[14], b[15] ++ b[16]⟩ else none := rfl

@[simp] theorem Call.sampleEntry_quiet : (c.sampleEntry q b).quiet = b[0].getLsbD 1 := rfl

/-- CLIPPED looks at the received samples of the entry itself, under the profile of the context (R13). -/
theorem Call.sampleEntry_clipped : (c.sampleEntry q b).clipped =
    clippedTag c.settings.clipEnable (c.sampleEntry q b).r0 (c.sampleEntry q b).r1 := rfl

theorem Call.sampleEntry_gap_of_absent (h : c.lastSequence = none) : (c.sampleEntry q b).gap.toNat = 0 := by
  rw [Call.sampleEntry_gap, h, gapCount_none]
  rfl

theorem Call.sampleEntry_gap_of_last {l : BitVec 4} (h : c.lastSequence = some l) :
    (c.sampleEntry q b).gap.toNat = (q.toNat + 15 - l.toNat) % 16 := by
  rw [Call.sampleEntry_gap, h, gapCount_some_toNat]

theorem Call.sampleEntry_clipped_iff : (c.sampleEntry q b).clipped = true ↔ c.settings.clipEnable = true ∧
    ∃ v ∈ [(c.sampleEntry q b).r0.i, (c.sampleEntry q b).r0.q, (c.sampleEntry q b).r1.i, (c.sampleEntry q b).r1.q],
      v.toInt = -32768 ∨ v.toInt = 32767 := by
  rw [Call.sampleEntry_clipped, clippedTag_iff]

end Entry

/-- Settles O20: one fact per tag and field of the entry, the gap count split by whether a last queued sequence is
present. -/
theorem sampleTagsAtArrival : Obligations.SampleTagsAtArrival := fun c q b =>
  ⟨c.sampleEntry_gap_of_absent q b, fun _ h => c.sampleEntry_gap_of_last q b h, c.sampleEntry_symbol q b,
    c.sampleEntry_r0 q b, c.sampleEntry_r1 q b, c.sampleEntry_reference q b, c.sampleEntry_quiet q b,
    c.sampleEntry_clipped_iff q b⟩

end Sys2Proof.Machine
end

section
/-! The update arithmetic of taps, and stage 9, echo adaptation (R37 to R39, R48 to R54). -/

namespace Sys2Proof.Machine

/-! ### Saturation (R39) -/

theorem lowest_le_highest (w : Nat) : lowest w ≤ highest w := by
  have h : (0 : Int) < 2 ^ (w - 1) := by positivity
  simp only [lowest, highest]
  omega

theorem clampTo_bounds (w : Nat) (v : Int) : lowest w ≤ clampTo w v ∧ clampTo w v ≤ highest w := by
  have h := lowest_le_highest w
  simp only [clampTo]
  omega

theorem clampTo_ne_iff (w : Nat) (v : Int) : clampTo w v ≠ v ↔ v < lowest w ∨ highest w < v := by
  have h := lowest_le_highest w
  simp only [clampTo]
  omega

/-- A clamped value fits the word it is stored in. -/
theorem toInt_ofInt_clampTo {w : Nat} (hw : 0 < w) (v : Int) :
    (BitVec.ofInt w (clampTo w v)).toInt = clampTo w v := by
  obtain ⟨low, high⟩ := clampTo_bounds w v
  simp only [lowest, highest] at low high
  exact BitVec.toInt_ofInt_eq_self hw low (by omega)

theorem clamps_iff (w : Nat) (v : CInt) : clamps w v = true ↔
    v.i < lowest w ∨ highest w < v.i ∨ v.q < lowest w ∨ highest w < v.q := by
  simp only [clamps, Bool.or_eq_true, bne_iff_ne, clampTo_ne_iff, or_assoc]

theorem clamps_24_iff (v : CInt) : clamps 24 v = true ↔ OutsideTapRange v.i v.q := clamps_iff 24 v

/-! ### The step of one tap (R48, R49, R87) -/

section Step

variable (shift : Nat) (e x : Sample) (base : CInt)

theorem stepTap_i : (stepTap shift e x base).1.i.toInt =
    max (-8388608) (min 8388607 (stepSumI shift e x base.i)) :=
  toInt_ofInt_clampTo (by decide) (stepSumI shift e x base.i)

theorem stepTap_q : (stepTap shift e x base).1.q.toInt =
    max (-8388608) (min 8388607 (stepSumQ shift e x base.q)) :=
  toInt_ofInt_clampTo (by decide) (stepSumQ shift e x base.q)

theorem stepTap_clamps_iff : (stepTap shift e x base).2 = true ↔
    OutsideTapRange (stepSumI shift e x base.i) (stepSumQ shift e x base.q) :=
  clamps_24_iff _

end Step

/-! ### The steps of a section (R48, R49) -/

/-- The step of the tap at `place` for the symbol at `k`, in a section of `taps` over the symbols `xs`. -/
def stepAt (shift : Nat) (e : Sample) (taps : List Tap) (xs : List Sample) (place k : Nat) : Tap × Bool :=
  stepTap shift e (xs.getD k Cplx.zero) (taps.getD place Cplx.zero).toCInt

theorem stepAt_clamps_iff (shift : Nat) (e : Sample) (taps : List Tap) (xs : List Sample) (place k : Nat) :
    (stepAt shift e taps xs place k).2 = true ↔
      OutsideTapRange (stepSumI shift e (xs.getD k Cplx.zero) (taps.getD place Cplx.zero).i.toInt)
        (stepSumQ shift e (xs.getD k Cplx.zero) (taps.getD place Cplx.zero).q.toInt) :=
  stepTap_clamps_iff ..

/-- A tap list holds the clamped sums of a step at the place where the step was put. -/
theorem holdsClamped_of_stepAt (shift : Nat) (e : Sample) (taps : List Tap) (xs : List Sample) {place : Nat} (k : Nat)
    {steps : List (Tap × Bool)} (h : steps[place]? = some (stepAt shift e taps xs place k)) :
    HoldsClamped (steps.map Prod.fst) place
      (stepSumI shift e (xs.getD k Cplx.zero) (taps.getD place Cplx.zero).i.toInt)
      (stepSumQ shift e (xs.getD k Cplx.zero) (taps.getD place Cplx.zero).q.toInt) :=
  ⟨(stepAt shift e taps xs place k).1, by rw [List.getElem?_map, h]; rfl, stepTap_i .., stepTap_q ..⟩

/-- The steps of one sample phase, place by place. -/
theorem stepTaps_eq_map_range (shift : Nat) (e : Sample) {n : Nat} {taps : List Tap} {xs : List Sample}
    (ht : taps.length = n) (hx : xs.length = n) :
    stepTaps shift e taps xs = (List.range n).map fun k => stepAt shift e taps xs k k := by
  refine List.ext_getElem (by simp [stepTaps, ht, hx]) fun k h _ => ?_
  obtain ⟨hkt, hkx⟩ : k < taps.length ∧ k < xs.length := by simpa [stepTaps] using h
  simp [stepTaps, stepAt, hkt, hkx]

section TwoPhases

variable (shift : Nat) (v : SampleValues) {n : Nat} {taps : List Tap} {xs : List Sample}

/-- The steps of both sample phases: e0 with the taps from place 0, e1 with the taps from place n. -/
theorem stepSection_eq (ht : taps.length = 2 * n) (hx : xs.length = n) :
    stepSection shift v n taps xs = (List.range n).map (fun k => stepAt shift v.e0 taps xs k k) ++
      (List.range n).map fun k => stepAt shift v.e1 taps xs (n + k) k := by
  have hfirst : (taps.take n).length = n := by simp; omega
  have hsecond : (taps.drop n).length = n := by simp; omega
  rw [stepSection, stepTaps_eq_map_range shift v.e0 hfirst hx, stepTaps_eq_map_range shift v.e1 hsecond hx]
  congr 1 <;> refine List.map_congr_left fun k hk => ?_
  · simp [stepAt, List.getD_eq_getElem?_getD, List.mem_range.mp hk]
  · simp [stepAt, List.getD_eq_getElem?_getD]

/-- What the steps of a section leave: 2n taps, each with its sum clamped. -/
theorem stepSection_holds (ht : taps.length = 2 * n) (hx : xs.length = n) :
    ((stepSection shift v n taps xs).map Prod.fst).length = 2 * n ∧ ∀ k < n,
      HoldsClamped ((stepSection shift v n taps xs).map Prod.fst) k
        (stepSumI shift v.e0 (xs.getD k Cplx.zero) (taps.getD k Cplx.zero).i.toInt)
        (stepSumQ shift v.e0 (xs.getD k Cplx.zero) (taps.getD k Cplx.zero).q.toInt) ∧
      HoldsClamped ((stepSection shift v n taps xs).map Prod.fst) (n + k)
        (stepSumI shift v.e1 (xs.getD k Cplx.zero) (taps.getD (n + k) Cplx.zero).i.toInt)
        (stepSumQ shift v.e1 (xs.getD k Cplx.zero) (taps.getD (n + k) Cplx.zero).q.toInt) := by
  rw [stepSection_eq shift v ht hx]
  refine ⟨by simp; omega, fun k hk =>
    ⟨holdsClamped_of_stepAt shift v.e0 taps xs k ?first, holdsClamped_of_stepAt shift v.e1 taps xs k ?second⟩⟩
  case first => rw [List.getElem?_append_left (by simpa using hk)]; simp [hk]
  case second => rw [List.getElem?_append_right (by simp)]; simp [hk]

/-- Some step of a section clamps exactly when some sum lies outside the range of a tap. -/
theorem stepSection_clamps_iff (ht : taps.length = 2 * n) (hx : xs.length = n) :
    (stepSection shift v n taps xs).any Prod.snd = true ↔ ∃ k < n,
      OutsideTapRange (stepSumI shift v.e0 (xs.getD k Cplx.zero) (taps.getD k Cplx.zero).i.toInt)
        (stepSumQ shift v.e0 (xs.getD k Cplx.zero) (taps.getD k Cplx.zero).q.toInt) ∨
      OutsideTapRange (stepSumI shift v.e1 (xs.getD k Cplx.zero) (taps.getD (n + k) Cplx.zero).i.toInt)
        (stepSumQ shift v.e1 (xs.getD k Cplx.zero) (taps.getD (n + k) Cplx.zero).q.toInt) := by
  simp only [stepSection_eq shift v ht hx, List.any_append, List.any_map, Bool.or_eq_true, List.any_eq_true,
    List.mem_range, Function.comp_apply, stepAt_clamps_iff, ← exists_or, ← and_or_left]

end TwoPhases

/-! ### When stage 9 adapts (R48, R53, R54) -/

@[simp] theorem mem_latchWhen {x y : Condition} {flag : Bool} : x ∈ latchWhen flag y ↔ flag = true ∧ x = y := by
  cases flag <;> simp [latchWhen]

/-- The gate codes one by one; HOLD never lets an entry adapt. -/
theorem gateOpen_iff (gate : Gate) (signal : SignalState) (quiet : Bool) : gateOpen gate signal quiet = true ↔
    (gate = .internal ∧ signal = .absent) ∨ (gate = .pump ∧ quiet = true) ∨
      (gate = .pumpInverted ∧ quiet = false) ∨ (gate = .both ∧ signal = .absent ∧ quiet = true) := by
  cases gate <;> simp [gateOpen]

theorem Call.echoAdapts_iff (c : Call) (ph : Phase) (e : SampleEntry) : c.echoAdapts ph e = true ↔
    c.frozen = false ∧ c.paused = false ∧ e.clipped = false ∧ ph.se ≠ 0 ∧
      ((c.settings.gate = .internal ∧ c.signalState = .absent) ∨ (c.settings.gate = .pump ∧ e.quiet = true) ∨
        (c.settings.gate = .pumpInverted ∧ e.quiet = false) ∨
        (c.settings.gate = .both ∧ c.signalState = .absent ∧ e.quiet = true)) := by
  simp only [Call.echoAdapts, Bool.and_eq_true, Bool.not_eq_true', bne_iff_ne, gateOpen_iff, and_assoc]

theorem FarSection.isActive_iff (far : FarSection) : far.isActive = true ↔ ∃ r, far = .active r := by
  cases far <;> simp [FarSection.isActive]

theorem Progress.farWindow_length {p : Progress} {r : Ring} (h : p.call.far = .active r) :
    p.farWindow.length = p.call.settings.nf := by
  simp [Progress.farWindow, h, Ring.window]

/-! ### What stage 9 leaves (R48, R49, R51, R52) -/

section Stage9

variable (p : Progress) (ph : Phase) (e : SampleEntry) (v : SampleValues)

/-- The steps of the near taps in an entry that may adapt. -/
def Progress.nearSteps : List (Tap × Bool) :=
  stepSection ph.se v p.call.settings.nn p.call.nearTaps p.call.nearLine

/-- The steps of the far taps in an entry that may adapt them. -/
def Progress.farSteps : List (Tap × Bool) :=
  stepSection ph.se v p.call.settings.nf p.call.farTaps p.farWindow

variable {p ph e}

theorem Progress.echoAdaptation_of_not_adapts (h : ¬p.call.echoAdapts ph e = true) :
    p.echoAdaptation ph e v = { p with latched := p.latched ++ latchWhen e.clipped .inputClip } := by
  rw [Progress.echoAdaptation, if_neg h]

theorem Progress.echoAdaptation_of_far (h : p.call.echoAdapts ph e = true) (hon : ph.farAdapt = true)
    (hactive : p.call.far.isActive = true) : p.echoAdaptation ph e v =
      { p with call := { p.call with nearTaps := (p.nearSteps ph v).map Prod.fst
                                     farTaps := (p.farSteps ph v).map Prod.fst }
               latched := p.latched ++ latchWhen e.clipped .inputClip
                 ++ latchWhen ((p.nearSteps ph v ++ p.farSteps ph v).any Prod.snd) .tapClip } := by
  rw [Progress.echoAdaptation, if_pos h, if_pos (by simp [hon, hactive])]
  rfl

theorem Progress.echoAdaptation_of_near (h : p.call.echoAdapts ph e = true)
    (hfar : ¬(ph.farAdapt = true ∧ p.call.far.isActive = true)) : p.echoAdaptation ph e v =
      { p with call := { p.call with nearTaps := (p.nearSteps ph v).map Prod.fst }
               latched := p.latched ++ latchWhen e.clipped .inputClip
                 ++ latchWhen ((p.nearSteps ph v).any Prod.snd) .tapClip } := by
  rw [Progress.echoAdaptation, if_pos h, if_neg (by simpa using hfar)]
  rfl

/-- The near taps are stepped whether or not the far taps are. -/
theorem Progress.echoAdaptation_nearTaps (h : p.call.echoAdapts ph e = true) :
    (p.echoAdaptation ph e v).call.nearTaps = (p.nearSteps ph v).map Prod.fst := by
  by_cases hfar : ph.farAdapt = true ∧ p.call.far.isActive = true
  · obtain ⟨hon, hactive⟩ := hfar
    rw [Progress.echoAdaptation_of_far v h hon hactive]
  · rw [Progress.echoAdaptation_of_near v h hfar]

/-- The far taps are left unless far-adapt is on and the far state ACTIVE, in every entry (R49). -/
theorem Progress.echoAdaptation_farTaps_kept (hfar : ¬(ph.farAdapt = true ∧ p.call.far.isActive = true)) :
    (p.echoAdaptation ph e v).call.farTaps = p.call.farTaps := by
  by_cases h : p.call.echoAdapts ph e = true
  · rw [Progress.echoAdaptation_of_near v h hfar]
  · rw [Progress.echoAdaptation_of_not_adapts v h]

/-- TAP_CLIP is noted when a near step clamps, or a far step where the far taps are stepped (R51). -/
theorem Progress.tapClip_mem_echoAdaptation_iff (h : p.call.echoAdapts ph e = true) :
    .tapClip ∈ (p.echoAdaptation ph e v).latched ↔ .tapClip ∈ p.latched ∨ (p.nearSteps ph v).any Prod.snd = true ∨
      ph.farAdapt = true ∧ p.call.far.isActive = true ∧ (p.farSteps ph v).any Prod.snd = true := by
  by_cases hfar : ph.farAdapt = true ∧ p.call.far.isActive = true
  · obtain ⟨hon, hactive⟩ := hfar
    rw [Progress.echoAdaptation_of_far v h hon hactive]
    simp only [List.mem_append, mem_latchWhen, List.any_append, Bool.or_eq_true, hon, hactive, reduceCtorEq,
      and_false, or_false, and_true, true_and]
  · rw [Progress.echoAdaptation_of_near v h hfar]
    simp only [List.mem_append, mem_latchWhen, ← and_assoc, hfar, reduceCtorEq, and_false, or_false, and_true,
      false_and]

end Stage9

/-- Settles O36, split by whether stage 9 may adapt, and then by whether it steps the far taps too: what is stepped is a
section over a line or window of the section's own length. -/
theorem echoTapsAdaptOnlyWhenPermitted : Obligations.EchoTapsAdaptOnlyWhenPermitted := by
  intro p ph e v shaped
  obtain ⟨hline, hnear, hfar, -, -⟩ := shaped
  have adapts := p.call.echoAdapts_iff ph e
  have active := p.call.far.isActive_iff
  refine ⟨fun hnot => ?kept, fun may => ?near, fun may hon r hr => ?far, fun hleft => ?farLeft, fun may => ?frame,
    fun may => ?clip⟩
  case kept =>
    rw [Progress.echoAdaptation_of_not_adapts v (mt adapts.mp hnot)]
    exact ⟨rfl, rfl⟩
  case near =>
    rw [Progress.echoAdaptation_nearTaps v (adapts.mpr may)]
    exact stepSection_holds ph.se v hnear hline
  case far =>
    rw [Progress.echoAdaptation_of_far v (adapts.mpr may) hon (active.mpr ⟨r, hr⟩)]
    exact stepSection_holds ph.se v hfar (Progress.farWindow_length hr)
  case farLeft =>
    refine Progress.echoAdaptation_farTaps_kept v fun ⟨hon, hactive⟩ => ?_
    obtain ⟨r, hr⟩ := active.mp hactive
    rcases hleft with hoff | hother
    · exact Bool.noConfusion (hoff.symm.trans hon)
    · exact hother r hr
  case frame => exact Progress.echoAdaptation_eq p ph e v
  case clip =>
    have nearClamps := stepSection_clamps_iff ph.se v hnear hline
    rw [Progress.tapClip_mem_echoAdaptation_iff v (adapts.mpr may), active]
    refine or_congr_right (or_congr nearClamps (and_congr_right fun _ => and_congr_right fun ⟨r, hr⟩ => ?_))
    exact stepSection_clamps_iff ph.se v hfar (Progress.farWindow_length hr)

end Sys2Proof.Machine
end

section
/-! The equalizer and its decisions: stages 4 to 7 (R76 to R83) and stage 10, equalizer adaptation (R86 to R89). -/

namespace Sys2Proof.Machine

/-! ### Sums of filtering products (R37, R41, R78) -/

theorem filterSumI_cons (t : Tap) (ts : List Tap) (x : Sample) (xs : List Sample) (n : Nat) :
    filterSumI (t :: ts) (x :: xs) (n + 1) = (filterProduct t.toCInt x.toCInt).i + filterSumI ts xs n :=
  (Finset.sum_range_succ' _ n).trans (add_comm ..)

theorem filterSumQ_cons (t : Tap) (ts : List Tap) (x : Sample) (xs : List Sample) (n : Nat) :
    filterSumQ (t :: ts) (x :: xs) (n + 1) = (filterProduct t.toCInt x.toCInt).q + filterSumQ ts xs n :=
  (Finset.sum_range_succ' _ n).trans (add_comm ..)

/-- Past the end of either list `dot` adds nothing, and a product with the value (0, 0) is (0, 0): the sum over any range
that covers the symbols is `dot`, whatever the number of taps. -/
theorem dot_eq {taps : List Tap} {xs : List Sample} {n : Nat} (h : xs.length ≤ n) :
    dot taps xs = ⟨filterSumI taps xs n, filterSumQ taps xs n⟩ := by
  induction taps generalizing xs n with
  | nil => simp [dot, filterSumI, filterSumQ]
  | cons t ts ih =>
    cases xs with
    | nil => simp [dot, filterSumI, filterSumQ]
    | cons x xs =>
      obtain ⟨m, rfl⟩ := Nat.exists_eq_add_of_le' (Nat.one_le_of_lt h)
      rw [dot, ih (Nat.le_of_succ_le_succ h), filterSumI_cons, filterSumQ_cons]
      rfl

/-! ### Saturation to 16 bits (R39) -/

theorem saturate_16_i (v : CInt) : (saturate 16 v).i.toInt = max (-32768) (min 32767 v.i) :=
  toInt_ofInt_clampTo (by decide) v.i

theorem saturate_16_q (v : CInt) : (saturate 16 v).q.toInt = max (-32768) (min 32767 v.q) :=
  toInt_ofInt_clampTo (by decide) v.q

theorem clamps_16_iff (v : CInt) : clamps 16 v = true ↔ v.i < -32768 ∨ 32767 < v.i ∨ v.q < -32768 ∨ 32767 < v.q :=
  clamps_iff 16 v

/-! ### The equalizer line (R76) -/

@[simp] theorem length_shiftIn {α : Type} (x : α) (line : List α) : (shiftIn x line).length = line.length := by
  simp [shiftIn]

/-- Two samples shifted in push the two oldest out. -/
theorem shiftIn_shiftIn {α : Type} (x y : α) {line : List α} (h : 2 ≤ line.length) :
    shiftIn y (shiftIn x line) = y :: x :: line.take (line.length - 2) := by
  obtain ⟨n, hn⟩ := Nat.exists_eq_add_of_le' h
  simp [shiftIn, hn, List.take_take]

/-! ### What stages 4 and 5 leave (R47, R76, R79) -/

section Stage5

variable (p : Progress) (e : SampleEntry) (v : SampleValues)

@[simp] theorem Progress.filter_eqLine : (p.filter v).call.eqLine = shiftIn v.e1 (shiftIn v.e0 p.call.eqLine) := rfl

theorem Progress.softClip_mem_filter_iff :
    .softClip ∈ (p.filter v).latched ↔ .softClip ∈ p.latched ∨ v.softClamped = true := by
  simp [Progress.filter]

theorem Progress.residualClip_mem_filter_iff :
    .residualClip ∈ (p.filter v).latched ↔ .residualClip ∈ p.latched ∨ v.residualClamped = true := by
  simp [Progress.filter]

/-! ### The soft symbol and the error (R78, R79, R83) -/

/-- The equalizer's sum over the line that the entry's residuals have entered, rounded but not yet clamped (R78, R79). -/
def Progress.eqOutput : CInt :=
  roundParts 22 (dot p.call.eqTaps (p.filter (p.values e)).call.eqLine)

theorem Progress.values_soft : (p.values e).soft = saturate 16 (p.eqOutput e) := rfl

theorem Progress.values_softClamped : (p.values e).softClamped = clamps 16 (p.eqOutput e) := rfl

theorem Progress.values_decision : (p.values e).decision = slice p.call.settings (p.values e).soft := rfl

theorem Progress.values_error : (p.values e).error =
    saturate 16 ((e.reference.getD (p.values e).decision).toCInt.sub (p.values e).soft.toCInt) := rfl

variable {p} {n : Nat}

theorem Progress.eqOutput_eq (h : p.call.eqLine.length = n) : p.eqOutput e =
    ⟨(filterSumI p.call.eqTaps (p.filter (p.values e)).call.eqLine n + 2097152) / 4194304,
      (filterSumQ p.call.eqTaps (p.filter (p.values e)).call.eqLine n + 2097152) / 4194304⟩ := by
  have covers : (p.filter (p.values e)).call.eqLine.length ≤ n := by simp [h]
  rw [Progress.eqOutput, dot_eq covers]
  rfl

end Stage5

/-- Settles O32: the soft symbol is the clamp of the equalizer's rounded sum, and SOFT_CLIP looks at that same sum. -/
theorem softSymbolAndError : Obligations.SoftSymbolAndError := by
  intro p e shaped two
  obtain ⟨-, -, -, hline, -⟩ := shaped
  have soft := p.values_soft e
  have softClamped := p.values_softClamped e
  rw [Progress.eqOutput_eq e hline] at soft softClamped
  refine ⟨?line, rfl, ?softI, ?softQ, p.values_decision e, ?errorI, ?errorQ, ?softClip,
    p.residualClip_mem_filter_iff (p.values e)⟩
  case line => rw [← hline, Progress.filter_eqLine, shiftIn_shiftIn _ _ (hline ▸ two)]
  case softI => rw [soft, saturate_16_i]
  case softQ => rw [soft, saturate_16_q]
  case errorI => rw [p.values_error e, saturate_16_i]; rfl
  case errorQ => rw [p.values_error e, saturate_16_q]; rfl
  case softClip => rw [p.softClip_mem_filter_iff, softClamped, clamps_16_iff]

/-! ### The slicer (R80, R81) -/

/-- The level of an index: the levels of M per axis are those of the indexes 0..M−1 (R80). -/
def levelAt (levels grid : Nat) (i : Int) : Int := (2 * i - levels + 1) * grid

/-- The index that the slicer gives a part (R81). -/
def sliceIndex (levels grid : Nat) (v : Int) : Int :=
  max 0 (min ((levels : Int) - 1) ((v + levels * grid) / (2 * grid)))

section Slicer

variable {levels grid : Nat} {v : Int}

theorem slicePart_eq_levelAt (levels grid : Nat) (v : Int) :
    slicePart levels grid v = levelAt levels grid (sliceIndex levels grid v) := rfl

theorem sliceIndex_bounds (hM : 1 ≤ levels) (v : Int) :
    0 ≤ sliceIndex levels grid v ∧ sliceIndex levels grid v < levels := by
  simp only [sliceIndex]
  omega

theorem levelAt_strictMono (hg : 1 ≤ grid) : StrictMono (levelAt levels grid) := fun _ _ h =>
  mul_lt_mul_of_pos_right (by omega) (by omega)

/-- An index above 0 is taken from the boundary (2i − M)·g below it upwards. -/
theorem boundary_le_of_sliceIndex_pos (hg : 1 ≤ grid) (h : 0 < sliceIndex levels grid v) :
    (2 * sliceIndex levels grid v - levels) * grid ≤ v := by
  have hq : sliceIndex levels grid v ≤ (v + levels * grid) / (2 * grid) := by
    simp only [sliceIndex] at h ⊢
    omega
  have := (Int.le_ediv_iff_mul_le (by omega)).mp hq
  linarith

/-- An index below M − 1 is taken up to, and without, the boundary (2(i + 1) − M)·g above it. -/
theorem lt_boundary_of_sliceIndex_lt (hg : 1 ≤ grid) (h : sliceIndex levels grid v < levels - 1) :
    v < (2 * (sliceIndex levels grid v + 1) - levels) * grid := by
  have hq : (v + levels * grid) / (2 * grid) < sliceIndex levels grid v + 1 := by
    simp only [sliceIndex] at h ⊢
    omega
  have := (Int.ediv_lt_iff_lt_mul (by omega)).mp hq
  linarith

end Slicer

/-- Of two values the upper one is at least as near as the lower one from their mid-point upwards. -/
theorem abs_sub_le_of_midpoint_le {a b v : Int} (hab : a ≤ b) (h : a + b ≤ 2 * v) : |v - b| ≤ |v - a| := by
  rw [abs_of_nonneg (by omega : 0 ≤ v - a), abs_le]
  omega

/-- Below the mid-point the lower one is strictly nearer. -/
theorem abs_sub_lt_of_lt_midpoint {a b v : Int} (hab : a < b) (h : 2 * v < a + b) : |v - a| < |v - b| := by
  rw [abs_of_nonpos (by omega : v - b ≤ 0), abs_lt]
  omega

/-- No level is nearer than the slicer's, and one that is as near is not more positive. The mid-point of two levels with
indexes j < i lies at or below the boundary under i, and that of i < j at or above the boundary over i. -/
theorem slicePart_nearest {levels grid : Nat} (hg : 1 ≤ grid) (v : Int) {j : Int} (h0 : 0 ≤ j) (hM : j < levels) :
    |v - slicePart levels grid v| ≤ |v - levelAt levels grid j| ∧
      (|v - slicePart levels grid v| = |v - levelAt levels grid j| → levelAt levels grid j ≤ slicePart levels grid v) := by
  rw [slicePart_eq_levelAt]
  rcases lt_trichotomy j (sliceIndex levels grid v) with below | rfl | above
  · have bound := boundary_le_of_sliceIndex_pos hg (h0.trans_lt below)
    generalize sliceIndex levels grid v = i at below bound ⊢
    have gap : 0 ≤ (i - j - 1) * (grid : Int) := mul_nonneg (by omega) (by positivity)
    have ordered : levelAt levels grid j ≤ levelAt levels grid i := (levelAt_strictMono hg below).le
    have midpoint : levelAt levels grid j + levelAt levels grid i ≤ 2 * v := by
      simp only [levelAt]
      linarith
    exact ⟨abs_sub_le_of_midpoint_le ordered midpoint, fun _ => ordered⟩
  · exact ⟨le_rfl, fun _ => le_rfl⟩
  · have bound := lt_boundary_of_sliceIndex_lt hg (by omega : sliceIndex levels grid v < levels - 1)
    generalize sliceIndex levels grid v = i at above bound ⊢
    have gap : 0 ≤ (j - i - 1) * (grid : Int) := mul_nonneg (by omega) (by positivity)
    have ordered : levelAt levels grid i < levelAt levels grid j := levelAt_strictMono hg above
    have midpoint : 2 * v < levelAt levels grid i + levelAt levels grid j := by
      simp only [levelAt]
      linarith
    have nearer := abs_sub_lt_of_lt_midpoint ordered midpoint
    exact ⟨nearer.le, fun tie => absurd tie nearer.ne⟩

/-- The checks of a profile that the slicer rests on: the outermost level fits 16 bits (R162). -/
theorem Profile.levels_of_inRange {p : Profile} (h : p.inRange = true) :
    p.levelsCode ≤ 3 ∧ 1 ≤ p.levels ∧ 1 ≤ p.grid ∧ ((p.levels : Int) - 1) * p.grid ≤ 32767 := by
  simp only [Profile.inRange, Bool.and_eq_true, decide_eq_true_eq, and_assoc] at h
  obtain ⟨hcode, hgrid, -, houter, -⟩ := h
  have hlevels : 1 ≤ p.levels := Nat.one_le_two_pow
  refine ⟨hcode, hlevels, hgrid, ?_⟩
  rw [← Nat.cast_one, ← Nat.cast_sub hlevels]
  exact_mod_cast houter

/-- Every level fits a word of 16 bits, so a decision holds the slicer's level itself. -/
theorem toInt_ofInt_slicePart {p : Profile} (h : p.inRange = true) (v : Int) :
    (BitVec.ofInt 16 (slicePart p.levels p.grid v)).toInt = slicePart p.levels p.grid v := by
  obtain ⟨-, hlevels, hgrid, houter⟩ := Profile.levels_of_inRange h
  obtain ⟨low, high⟩ := sliceIndex_bounds (grid := p.grid) hlevels v
  have mono : Monotone (levelAt p.levels p.grid) := (levelAt_strictMono hgrid).monotone
  have least : levelAt p.levels p.grid 0 ≤ slicePart p.levels p.grid v := mono low
  have greatest : slicePart p.levels p.grid v ≤ levelAt p.levels p.grid (p.levels - 1) := mono (by omega)
  simp only [levelAt] at least greatest
  exact BitVec.toInt_ofInt_eq_self (by decide) (show -32768 ≤ _ by linarith) (show _ < 32768 by linarith)

/-- Settles O34: both parts are sliced by the one rule. -/
theorem decisionIsTheNearestLevel : Obligations.DecisionIsTheNearestLevel := by
  intro p z valid
  obtain ⟨hcode, hlevels, hgrid, -⟩ := Profile.levels_of_inRange valid
  refine ⟨⟨hcode, rfl⟩, fun v d part => ?_⟩
  have sliced : d.toInt = slicePart p.levels p.grid v.toInt := by
    rcases part with ⟨rfl, rfl⟩ | ⟨rfl, rfl⟩ <;> exact toInt_ofInt_slicePart valid _
  obtain ⟨low, high⟩ := sliceIndex_bounds (grid := p.grid) hlevels v.toInt
  rw [sliced]
  exact ⟨⟨_, low, high, rfl⟩, fun i h0 hM => slicePart_nearest hgrid v.toInt h0 hM⟩

/-! ### When stage 10 adapts (R86, R87) -/

theorem modePermits_iff (mode : EqMode) (reference : Option Sample) : modePermits mode reference = true ↔
    mode = .decision ∨ (mode = .reference ∧ reference.isSome = true) := by
  cases mode <;> simp [modePermits]

theorem Call.eqAdapts_iff (c : Call) (ph : Phase) (e : SampleEntry) : c.eqAdapts ph e = true ↔
    c.frozen = false ∧ c.paused = false ∧ c.hold = false ∧ e.clipped = false ∧ ph.sw ≠ 0 ∧
      (ph.mode = .decision ∨ (ph.mode = .reference ∧ e.reference.isSome = true)) := by
  simp only [Call.eqAdapts, Bool.and_eq_true, Bool.not_eq_true', bne_iff_ne, modePermits_iff, and_assoc]

/-! ### What stage 10 leaves (R87 to R89) -/

section Stage10

variable (p : Progress) (ph : Phase) (e : SampleEntry) (v : SampleValues)

/-- The leak and step of each equalizer tap in an entry that may adapt (R87). -/
def Progress.eqSteps : List (Tap × Bool) :=
  List.zipWith (fun t x => stepTap ph.sw v.error x (leakTap ph.leak t)) p.call.eqTaps p.call.eqLine

/-- The leak and step of the tap at place `j`. -/
def Progress.eqStepAt (j : Nat) : Tap × Bool :=
  stepTap ph.sw v.error (p.call.eqLine.getD j Cplx.zero) (leakTap ph.leak (p.call.eqTaps.getD j Cplx.zero))

/-- The exact I part of that step, from the leaked tap, before its saturation. -/
def Progress.eqSumI (j : Nat) : Int :=
  stepSumI ph.sw v.error (p.call.eqLine.getD j Cplx.zero) (leakedPart ph.leak (p.call.eqTaps.getD j Cplx.zero).i.toInt)

/-- The exact Q part of the same. -/
def Progress.eqSumQ (j : Nat) : Int :=
  stepSumQ ph.sw v.error (p.call.eqLine.getD j Cplx.zero) (leakedPart ph.leak (p.call.eqTaps.getD j Cplx.zero).q.toInt)

theorem Progress.eqStepAt_clamps_iff (j : Nat) : (p.eqStepAt ph v j).2 = true ↔
    OutsideTapRange (p.eqSumI ph v j) (p.eqSumQ ph v j) :=
  stepTap_clamps_iff ..

variable {p ph e}

theorem Progress.eqAdaptation_of_not_adapts (h : ¬p.call.eqAdapts ph e = true) : p.eqAdaptation ph e v = p := by
  rw [Progress.eqAdaptation, if_neg h]

theorem Progress.eqAdaptation_of_adapts (h : p.call.eqAdapts ph e = true) : p.eqAdaptation ph e v =
    { p with call := { p.call with eqTaps := (p.eqSteps ph v).map Prod.fst }
             latched := p.latched ++ latchWhen ((p.eqSteps ph v).any Prod.snd) .tapClip } := by
  rw [Progress.eqAdaptation, if_pos h]
  rfl

variable {n : Nat} (ht : p.call.eqTaps.length = n) (hx : p.call.eqLine.length = n)

include ht hx

theorem Progress.eqSteps_eq_map_range : p.eqSteps ph v = (List.range n).map (p.eqStepAt ph v) := by
  refine List.ext_getElem (by simp [Progress.eqSteps, ht, hx]) fun j h _ => ?_
  obtain ⟨hjt, hjx⟩ : j < p.call.eqTaps.length ∧ j < p.call.eqLine.length := by simpa [Progress.eqSteps] using h
  simp [Progress.eqSteps, Progress.eqStepAt, hjt, hjx]

theorem Progress.eqSteps_hold {j : Nat} (hj : j < n) :
    HoldsClamped ((p.eqSteps ph v).map Prod.fst) j (p.eqSumI ph v j) (p.eqSumQ ph v j) := by
  have place : ((p.eqSteps ph v).map Prod.fst)[j]? = some (p.eqStepAt ph v j).1 := by
    simp [Progress.eqSteps_eq_map_range v ht hx, hj]
  exact ⟨_, place, stepTap_i .., stepTap_q ..⟩

theorem Progress.eqSteps_clamps_iff : (p.eqSteps ph v).any Prod.snd = true ↔
    ∃ j < n, OutsideTapRange (p.eqSumI ph v j) (p.eqSumQ ph v j) := by
  simp only [Progress.eqSteps_eq_map_range v ht hx, List.any_map, List.any_eq_true, List.mem_range,
    Function.comp_apply, Progress.eqStepAt_clamps_iff]

end Stage10

/-- Settles O37, split by whether stage 10 may adapt: the taps are then the leaked and stepped ones, place by place. -/
theorem equalizerTapsAdaptOnlyWhenPermitted : Obligations.EqualizerTapsAdaptOnlyWhenPermitted := by
  intro p ph e v shaped
  obtain ⟨-, -, -, hline, htaps⟩ := shaped
  have adapts := p.call.eqAdapts_iff ph e
  refine ⟨fun hnot => Progress.eqAdaptation_of_not_adapts v (mt adapts.mp hnot), fun may => ?_⟩
  rw [Progress.eqAdaptation_of_adapts v (adapts.mpr may)]
  refine ⟨?length, fun j hj => Progress.eqSteps_hold v htaps hline hj, rfl, ?clip⟩
  case length => simp [Progress.eqSteps_eq_map_range v htaps hline]
  case clip =>
    simp only [List.mem_append, mem_latchWhen, and_true]
    exact or_congr_right (Progress.eqSteps_clamps_iff v htaps hline)

end Sys2Proof.Machine
end

section
/-! Stage 11: the schedule cursor (R96, R97). -/

namespace Sys2Proof.Machine

section Stage11

variable {p : Progress} {ph : Phase} {n : Nat}

theorem Progress.schedule_of_not_counted (h : p.call.frozen = true ∨ p.call.paused = true) :
    p.schedule ph n = p := by
  have stopped : (p.call.frozen || p.call.paused) = true := Bool.or_eq_true_iff.mpr h
  rw [Progress.schedule, if_pos stopped]

/-! ### A counted entry -/

variable (frozen : p.call.frozen = false) (paused : p.call.paused = false)

include frozen paused

theorem Progress.frozen_or_paused_eq_false : (p.call.frozen || p.call.paused) = false :=
  Bool.or_eq_false_iff.mpr ⟨frozen, paused⟩

theorem Progress.schedule_of_endless (h0 : ph.length = 0) (hlt : p.call.count < 65535) :
    p.schedule ph n = { p with call := { p.call with count := p.call.count + 1 } } := by
  simp [Progress.schedule, Progress.frozen_or_paused_eq_false frozen paused, h0, hlt]

/-- The count of a phase of length 0 stays at its greatest value. -/
theorem Progress.schedule_of_endless_full (h0 : ph.length = 0) (hle : 65535 ≤ p.call.count) :
    p.schedule ph n = p := by
  simp [Progress.schedule, Progress.frozen_or_paused_eq_false frozen paused, h0, hle.not_gt]

theorem Progress.schedule_of_before_end (h : p.call.count + 1 < ph.length) :
    p.schedule ph n = { p with call := { p.call with count := p.call.count + 1 } } := by
  have h0 : ph.length ≠ 0 := Nat.ne_zero_of_lt h
  simp [Progress.schedule, Progress.frozen_or_paused_eq_false frozen paused, h0, h]

theorem Progress.schedule_of_next_phase (hend : p.call.count + 1 = ph.length) (hnext : p.call.phase + 1 < n) :
    p.schedule ph n =
      { p with call := { p.call with phase := p.call.phase + 1, count := 0 }
               latched := p.latched ++ [.phaseEntered] } := by
  simp [Progress.schedule, Progress.frozen_or_paused_eq_false frozen paused, ← hend, hnext]

theorem Progress.schedule_of_last_phase (hend : p.call.count + 1 = ph.length) (hlast : n ≤ p.call.phase + 1) :
    p.schedule ph n =
      { p with call := { p.call with count := ph.length }, latched := p.latched ++ [.scheduleEnd] } := by
  simp [Progress.schedule, Progress.frozen_or_paused_eq_false frozen paused, ← hend, hlast.not_gt]

/-- After SCHEDULE_END the count stands at the length of the last phase, and later entries neither raise it nor latch
SCHEDULE_END again. -/
theorem Progress.schedule_of_after_end (h0 : ph.length ≠ 0) (h : ph.length ≤ p.call.count) :
    p.schedule ph n = p := by
  have notBefore : ¬p.call.count + 1 < ph.length := by omega
  have notAt : p.call.count + 1 ≠ ph.length := by omega
  simp [Progress.schedule, Progress.frozen_or_paused_eq_false frozen paused, h0, notBefore, notAt]

end Stage11

/-- Settles O39, split as R97 is: an entry that is not counted, and for a counted one the next phase, the last phase,
the count below and past the length, and a phase of length 0. -/
theorem scheduleCursorAdvances : Obligations.ScheduleCursorAdvances := by
  intro p ph n
  refine ⟨Progress.schedule_of_not_counted, fun frozen paused => ⟨fun _ => ?next, fun _ => ?last, ?before, ?after,
    ?endless, ?endlessFull⟩⟩
  case next => exact Progress.schedule_of_next_phase frozen paused
  case last => exact Progress.schedule_of_last_phase frozen paused
  case before => exact Progress.schedule_of_before_end frozen paused
  case after => exact Progress.schedule_of_after_end frozen paused
  case endless => exact Progress.schedule_of_endless frozen paused
  case endlessFull => exact Progress.schedule_of_endless_full frozen paused

end Sys2Proof.Machine
end

section
/-! Stage 8: the signal monitor and the error monitor (R105 to R111). -/

namespace Sys2Proof.Machine

/-! ### The average (R107, R110) -/

/-- A difference `a − a / n` does not fall when `a` rises, since the quotient rises by at most as much. -/
theorem sub_div_mono (n : Nat) : Monotone fun a : Nat => a - a / n := by
  refine monotone_nat_of_le_succ fun a => ?_
  have quotient : (a + 1) / n ≤ a / n + 1 := by
    rw [Nat.succ_div]
    split <;> omega
  have whole : a / n ≤ a := Nat.div_le_self a n
  omega

/-- An average stays under any bound that the old value and the sample keep, whatever the shift. -/
theorem averaged_le {a x bound : Nat} (shift : Nat) (ha : a ≤ bound) (hx : x ≤ bound) :
    averaged a shift x ≤ bound := calc
  averaged a shift x ≤ (bound - bound / 2 ^ shift) + bound / 2 ^ shift :=
    Nat.add_le_add (sub_div_mono _ ha) (Nat.div_le_div_right hx)
  _ = bound := Nat.sub_add_cancel (Nat.div_le_self ..)

/-! ### The power samples (R107, R110) -/

theorem natAbs_toInt_le (v : BitVec 16) : v.toInt.natAbs ≤ 2 ^ 15 := by
  have low := v.le_toInt
  have high := v.toInt_lt
  omega

theorem squaredMagnitude_le (e : Sample) : squaredMagnitude e ≤ 2 ^ 31 :=
  Nat.add_le_add (Nat.pow_le_pow_left (natAbs_toInt_le e.i) 2) (Nat.pow_le_pow_left (natAbs_toInt_le e.q) 2)

/-- The signal power sample, the mean of the two residuals' powers. -/
theorem mean_squaredMagnitude_le (e0 e1 : Sample) : (squaredMagnitude e0 + squaredMagnitude e1) / 2 ≤ 2 ^ 31 := by
  have h0 := squaredMagnitude_le e0
  have h1 := squaredMagnitude_le e1
  omega

/-! ### The comparisons with the thresholds (R108, R111) -/

theorem signalAfter_eq_present_iff (before : SignalState) (power tOn tOff : Nat) :
    signalAfter before power tOn tOff = .present ↔
      before = .absent ∧ tOn ≤ power ∨ before = .present ∧ tOff ≤ power := by
  cases before <;> simp [signalAfter]

theorem errorAfter_eq_settled_iff (before : ErrorState) (power tConv tDiv : Nat) :
    errorAfter before power tConv tDiv = .settled ↔
      before = .unsettled ∧ power < tConv ∨ before = .settled ∧ power ≤ tDiv := by
  cases before <;> simp [errorAfter]

section Stage8

variable (p : Progress) (v : SampleValues)

/-! ### The signal monitor (R107, R108) -/

theorem Progress.signalMonitor_signalPower : (p.signalMonitor v).call.signalPower =
    averaged p.call.signalPower p.call.settings.ks ((squaredMagnitude v.e0 + squaredMagnitude v.e1) / 2) := rfl

theorem Progress.signalMonitor_signalState : (p.signalMonitor v).call.signalState =
    signalAfter p.call.signalState (p.signalMonitor v).call.signalPower p.call.settings.tOn p.call.settings.tOff := rfl

/-- A crossing is judged by the state before the entry and the state that the monitor leaves. -/
theorem Progress.signalMonitor_latched : (p.signalMonitor v).latched = p.latched
    ++ latchWhen (p.call.signalState == .absent && (p.signalMonitor v).call.signalState == .present
        && p.call.settings.signalRise) .signalOn
    ++ latchWhen (p.call.signalState == .present && (p.signalMonitor v).call.signalState == .absent
        && p.call.settings.signalFall) .signalOff := rfl

/-- The bound of P is kept: the signal power sample is below it. -/
theorem Progress.signalMonitor_signalPower_le
    (h : p.call.signalPower ≤ 2 ^ 31 + 2 ^ p.call.settings.ks) :
    (p.signalMonitor v).call.signalPower ≤ 2 ^ 31 + 2 ^ p.call.settings.ks :=
  averaged_le _ h ((mean_squaredMagnitude_le v.e0 v.e1).trans (Nat.le_add_right ..))

theorem Progress.signalOn_mem_signalMonitor_iff : .signalOn ∈ (p.signalMonitor v).latched ↔ .signalOn ∈ p.latched ∨
    (p.call.settings.signalRise = true ∧ p.call.signalState = .absent ∧
      (p.signalMonitor v).call.signalState = .present) := by
  simp [Progress.signalMonitor_latched, and_comm]

theorem Progress.signalOff_mem_signalMonitor_iff : .signalOff ∈ (p.signalMonitor v).latched ↔ .signalOff ∈ p.latched ∨
    (p.call.settings.signalFall = true ∧ p.call.signalState = .present ∧
      (p.signalMonitor v).call.signalState = .absent) := by
  simp [Progress.signalMonitor_latched, and_comm]

/-! ### The error monitor (R109 to R111, R90) -/

theorem Profile.errorMonitorOn_iff (s : Profile) : s.errorMonitorOn = true ↔ s.errorRise = true ∨ s.errorFall = true :=
  Bool.or_eq_true_iff

theorem Progress.errorMonitor_of_off (h : p.call.settings.errorMonitorOn = false) : p.errorMonitor v = p := by
  simp [Progress.errorMonitor, h]

variable {p} (on : p.call.settings.errorMonitorOn = true)

include on

theorem Progress.errorMonitor_errorPower : (p.errorMonitor v).call.errorPower =
    averaged p.call.errorPower p.call.settings.kq (squaredMagnitude v.error) := by
  simp [Progress.errorMonitor, on]

theorem Progress.errorMonitor_errorState : (p.errorMonitor v).call.errorState =
    errorAfter p.call.errorState (p.errorMonitor v).call.errorPower p.call.settings.tConv p.call.settings.tDiv := by
  simp [Progress.errorMonitor, on]

theorem Progress.errorMonitor_latched : (p.errorMonitor v).latched = p.latched
    ++ latchWhen (p.call.errorState == .unsettled && (p.errorMonitor v).call.errorState == .settled
        && p.call.settings.errorFall) .converged
    ++ latchWhen (p.call.errorState == .settled && (p.errorMonitor v).call.errorState == .unsettled
        && p.call.settings.errorRise) .diverged := by
  simp [Progress.errorMonitor, on]

/-- The hold is set by the crossing that latches DIVERGED (R90). -/
theorem Progress.errorMonitor_hold : (p.errorMonitor v).call.hold = (p.call.hold ||
    (p.call.errorState == .settled && (p.errorMonitor v).call.errorState == .unsettled
      && p.call.settings.errorRise)) := by
  simp [Progress.errorMonitor, on]

theorem Progress.errorMonitor_errorPower_lt (h : p.call.errorPower < 2 ^ 32) :
    (p.errorMonitor v).call.errorPower < 2 ^ 32 := by
  have sample : squaredMagnitude v.error ≤ 2 ^ 32 - 1 := (squaredMagnitude_le v.error).trans (by decide)
  rw [Progress.errorMonitor_errorPower v on]
  exact Nat.lt_of_le_pred (by decide) (averaged_le _ (Nat.le_pred_of_lt h) sample)

theorem Progress.converged_mem_errorMonitor_iff : .converged ∈ (p.errorMonitor v).latched ↔ .converged ∈ p.latched ∨
    (p.call.settings.errorFall = true ∧ p.call.errorState = .unsettled ∧
      (p.errorMonitor v).call.errorState = .settled) := by
  simp [Progress.errorMonitor_latched v on, and_comm]

theorem Progress.diverged_mem_errorMonitor_iff : .diverged ∈ (p.errorMonitor v).latched ↔ .diverged ∈ p.latched ∨
    (p.call.settings.errorRise = true ∧ p.call.errorState = .settled ∧
      (p.errorMonitor v).call.errorState = .unsettled) := by
  simp [Progress.errorMonitor_latched v on, and_comm]

theorem Progress.errorMonitor_hold_iff : (p.errorMonitor v).call.hold = true ↔ p.call.hold = true ∨
    (p.call.settings.errorRise = true ∧ p.call.errorState = .settled ∧
      (p.errorMonitor v).call.errorState = .unsettled) := by
  simp [Progress.errorMonitor_hold v on, and_comm]

end Stage8

/-- Settles O35: the signal monitor, the error monitor when it is on, and when it is off. Both bounds follow from
`averaged_le`; the range of the shift is not needed for them. -/
theorem monitorsFollowTheirPowers : Obligations.MonitorsFollowTheirPowers := by
  intro p v
  refine ⟨p.signalMonitor_signalPower v, p.signalMonitor_signalPower_le v, signalAfter_eq_present_iff ..,
    p.signalOn_mem_signalMonitor_iff v, p.signalOff_mem_signalMonitor_iff v, fun enabled => ?on, fun rise fall => ?off⟩
  case on =>
    have on := (Profile.errorMonitorOn_iff _).mpr enabled
    refine ⟨Progress.errorMonitor_errorPower v on, fun h _ _ => Progress.errorMonitor_errorPower_lt v on h, ?state,
      Progress.converged_mem_errorMonitor_iff v on, Progress.diverged_mem_errorMonitor_iff v on,
      Progress.errorMonitor_hold_iff v on⟩
    rw [Progress.errorMonitor_errorState v on, errorAfter_eq_settled_iff]
  case off => exact p.errorMonitor_of_off v (Bool.or_eq_false_iff.mpr ⟨rise, fall⟩)

end Sys2Proof.Machine
end

section
/-! Latching a condition, and the two flags under each report mode (R112, R114). -/

namespace Sys2Proof.Machine

variable {c : Call} {x : Condition}

theorem Call.latch_of_pending (h : c.isPending x = true) : c.latch x = c := if_pos h

theorem Call.isPending_latch_iff (y : Condition) :
    (c.latch x).isPending y = true ↔ c.isPending y = true ∨ y = x := by
  rw [Call.isPending_latch, Bool.or_eq_true, decide_eq_true_iff, eq_comm (a := x)]

/-! ### A condition that becomes pending, by report mode (R114) -/

section NewlyPending

variable (new : c.isPending x = false)

include new

theorem Call.latch_of_every (mode : c.settings.reportMode = .every) :
    c.latch x = { c with conditions := c.conditions ||| x.bit, statusDue := true } := by
  simp [Call.latch, Call.noteNewCondition, new, mode]

theorem Call.latch_of_first_clear (mode : c.settings.reportMode = .first) (clear : c.firstReported = false) :
    c.latch x = { c with conditions := c.conditions ||| x.bit, statusDue := true, firstReported := true } := by
  simp [Call.latch, Call.noteNewCondition, new, mode, clear]

/-- FIRST stays silent until a CLEAR has cleared the first-reported flag. -/
theorem Call.latch_of_first_reported (mode : c.settings.reportMode = .first) (reported : c.firstReported = true) :
    c.latch x = { c with conditions := c.conditions ||| x.bit } := by
  simp [Call.latch, Call.noteNewCondition, new, mode, reported]

theorem Call.latch_of_none (mode : c.settings.reportMode = .none) :
    c.latch x = { c with conditions := c.conditions ||| x.bit } := by
  simp [Call.latch, Call.noteNewCondition, new, mode]

end NewlyPending

/-- Settles O41: the flags are read off the next call of each report mode, FIRST split by the first-reported flag. -/
theorem latchFollowsTheReportMode : Obligations.LatchFollowsTheReportMode := by
  intro c x
  refine ⟨Call.latch_of_pending, fun new => ⟨Call.isPending_latch_iff, and_assoc.mp ⟨?flags, c.latch_eq x⟩⟩⟩
  cases mode : c.settings.reportMode with
  | every => simp [Call.latch_of_every new mode]
  | none => simp [Call.latch_of_none new mode]
  | first =>
    cases reported : c.firstReported with
    | false => simp [Call.latch_of_first_clear new mode reported]
    | true => simp [Call.latch_of_first_reported new mode reported, reported]

end Sys2Proof.Machine
end

section
/-! EXPORT and IMPORT completing for a LIVE context (R119, R121, R122, R128, R129). -/

namespace Sys2Proof.Machine

/-! ### The section that a record names (R119, R167) -/

theorem sectionParameter_eq_some {b : Vector Byte 17} {part : TapSection} (h : sectionCode part = b[0]) :
    sectionParameter b = some part := by
  cases part <;> simp [sectionParameter, ← h, sectionCode]

theorem sectionParameter_eq_none {b : Vector Byte 17} (h : 3 ≤ b[0].toNat) : sectionParameter b = none := by
  unfold sectionParameter
  split
  case h_4 => rfl
  all_goals omega

/-! ### The completion of a CONTROL (R22, R24) -/

/-- A CONTROL entry of the command's kind takes effect on its LIVE context; then the engine takes its next entry. -/
theorem State.completeControl_of_live {s : State} {i : CtxNum} {e : ControlEntry} {c : Call} {isKind : BitVec 4 → Bool}
    (effect : CtxNum → Vector Byte 17 → Call → State → State)
    (job : s.engine.job = some { context := i, entry := .control e }) (kind : isKind e.kind = true)
    (live : s.contexts[i] = .live c) :
    s.completeControl isKind effect = (effect i e.bytes c s.endJob).takeNext := by
  simp [State.completeControl, State.completeFor, job, kind, live]

/-! ### Setting up an export (R121, R122) -/

section Export

variable (c : Call)

theorem Call.abortExport_eq : c.abortExport =
    if c.exportRun.isSome then { c with exportRun := none }.latch .exportAborted else c := by
  unfold Call.abortExport
  cases c.exportRun <;> rfl

@[simp] theorem Call.abortExport_settings : c.abortExport.settings = c.settings := by
  rw [Call.abortExport_eq]
  split <;> simp

variable {c} {part : TapSection} {first count : Nat} {consistent : Bool}

theorem Call.startExport_of_lt (h : first < c.settings.segments part) :
    c.startExport (some part) first count consistent =
      { c with exportRun := some {
          part := part, next := first
          last := lastSegment (c.settings.segments part) first count
          consistent := consistent } } :=
  if_pos h

/-- An export that starts past its section ends at once; a code that names no section has no segments. -/
theorem Call.startExport_of_le {named : Option TapSection} (h : c.settings.segmentsOf named ≤ first) :
    c.startExport named first count consistent = c.latch .exportDone := by
  cases named with
  | none => rfl
  | some part => exact if_neg h.not_gt

end Export

/-- EXPORT completing for a LIVE context: a running export is aborted before the new one is set up. -/
theorem exec_exportTaps_of_live {s : State} {i : CtxNum} {e : ControlEntry} {c : Call}
    (job : s.engine.job = some { context := i, entry := .control e }) (kind : e.kind = 7)
    (live : s.contexts[i] = .live c) :
    exec .exportTaps s = .next (s.endJob.setContext i (.live (c.abortExport.startExport (sectionParameter e.bytes)
      (segmentParameter e.bytes) (countParameter e.bytes) (consistentParameter e.bytes)))).takeNext :=
  congrArg Host.Outcome.next (State.completeControl_of_live State.exportOutcome job (beq_iff_eq.mpr kind) live)

/-- Settles O48: the export set up by `startExport` in the call that `abortExport` leaves, split by whether the first
segment lies in the section. -/
theorem exportSetsUpItsRecord : Obligations.ExportSetsUpItsRecord := by
  intro s i e c job kind live first count stopped answer part segments row
  have aborted : c.abortExport = stopped := c.abortExport_eq
  have sections : segments = stopped.settings.segments part := by
    rw [← aborted, Call.abortExport_settings]
    rcases row with ⟨rfl, h⟩ | ⟨rfl, h⟩ | ⟨rfl, h⟩ <;> exact h
  have completes : exec .exportTaps s = .next (answer (stopped.startExport (sectionParameter e.bytes) first count
      (consistentParameter e.bytes))) := aborted ▸ exec_exportTaps_of_live job kind live
  rw [completes]
  refine ⟨fun code inside => ?record, fun code past => ?past, fun code => ?unnamed⟩
  case record =>
    rw [sectionParameter_eq_some code, Call.startExport_of_lt (inside.trans_eq sections), ← sections]
    rfl
  case past => rw [sectionParameter_eq_some code, Call.startExport_of_le (sections.ge.trans past)]
  case unnamed => rw [sectionParameter_eq_none code, Call.startExport_of_le (Nat.zero_le first)]

/-! ### Accepting and refusing an IMPORT (R128, R129) -/

theorem Call.importAccepted_iff (c : Call) (named : Option TapSection) (segment : Nat) :
    c.importAccepted named segment = true ↔ c.frozen = true ∧ segment < c.settings.segmentsOf named := by
  simp [Call.importAccepted]

theorem Call.importAccepted_eq_false_iff (c : Call) (named : Option TapSection) (segment : Nat) :
    c.importAccepted named segment = false ↔ c.frozen = false ∨ c.settings.segmentsOf named ≤ segment := by
  rw [← Bool.not_eq_true, Call.importAccepted_iff, not_and_or, Bool.not_eq_true, not_lt]

section Import

variable {s : State} {i : CtxNum} {b : Vector Byte 17} {c : Call}

theorem State.importOutcome_of_accepted {part : TapSection} (named : sectionParameter b = some part)
    (h : c.importAccepted (some part) (segmentParameter b) = true) :
    s.importOutcome i b c =
      s.setContext i (.live (c.importTaps part (segmentParameter b) (firstTapParameter b) (secondTapParameter b))) := by
  simp [State.importOutcome, named, h]

theorem State.importOutcome_of_refused (h : c.importAccepted (sectionParameter b) (segmentParameter b) = false) :
    s.importOutcome i b c = s.setContext i (.live (c.latch .importRefused)) := by
  unfold State.importOutcome
  cases named : sectionParameter b with
  | none => rfl
  | some part => exact if_neg (Bool.eq_false_iff.mp (named ▸ h))

end Import

/-- IMPORT completing for a LIVE context. -/
theorem exec_importTaps_of_live {s : State} {i : CtxNum} {e : ControlEntry} {c : Call}
    (job : s.engine.job = some { context := i, entry := .control e }) (kind : e.kind = 8)
    (live : s.contexts[i] = .live c) :
    exec .importTaps s = .next (s.endJob.importOutcome i e.bytes c).takeNext :=
  congrArg Host.Outcome.next (State.completeControl_of_live State.importOutcome job (beq_iff_eq.mpr kind) live)

/-- Settles O49: one argument for an accepted IMPORT into any section, and one for a refused IMPORT, where a code that
names no section has no segments. -/
theorem importWritesTwoTapsOrIsRefused : Obligations.ImportWritesTwoTapsOrIsRefused := by
  intro s i e c job kind live m t u answer
  have completes := exec_importTaps_of_live job kind live
  have accepted (part : TapSection) (frozen : c.frozen = true) (code : sectionCode part = e.bytes[0])
      (inside : m < c.settings.segments part) : exec .importTaps s = .next (answer (c.importTaps part m t u)) := by
    rw [completes, State.importOutcome_of_accepted (sectionParameter_eq_some code)
      ((c.importAccepted_iff _ _).mpr ⟨frozen, inside⟩)]
    rfl
  have refused (h : c.frozen = false ∨ c.settings.segmentsOf (sectionParameter e.bytes) ≤ m) :
      exec .importTaps s = .next (answer (c.latch .importRefused)) := by
    rw [completes, State.importOutcome_of_refused ((c.importAccepted_eq_false_iff _ _).mpr h)]
    rfl
  have refusedPast (part : TapSection) (code : sectionCode part = e.bytes[0]) (past : c.settings.segments part ≤ m) :
      exec .importTaps s = .next (answer (c.latch .importRefused)) :=
    refused (.inr (sectionParameter_eq_some code ▸ past))
  refine ⟨fun frozen code => accepted .near frozen code.symm, fun frozen code => accepted .far frozen code.symm,
    fun frozen code => accepted .eq frozen code.symm, ?_⟩
  rintro (thawed | ⟨code, past⟩ | ⟨code, past⟩ | ⟨code, past⟩ | unnamed)
  · exact refused (.inl thawed)
  · exact refusedPast .near code.symm past
  · exact refusedPast .far code.symm past
  · exact refusedPast .eq code.symm past
  · exact refused (.inr (sectionParameter_eq_none unnamed ▸ Nat.zero_le m))

end Sys2Proof.Machine
end

section
/-! The profile entries of the parameter image (R146, R162, R170). -/

namespace Sys2Proof.Machine

/-! ### The coded fields (R53, R146, R162) -/

theorem symbolRate_eq_getElem? (code : Nat) : symbolRate code = [1200, 1600, 2400, 2800, 3000, 3200][code]? := by
  match code with
  | 0 | 1 | 2 | 3 | 4 | 5 | _ + 6 => rfl

theorem gateOf_eq_getElem? (code : Nat) :
    gateOf code = [Gate.internal, .pump, .pumpInverted, .both, .hold][code]? := by
  match code with
  | 0 | 1 | 2 | 3 | 4 | _ + 5 => rfl

theorem reportModeOf_eq_getElem? (code : Nat) : reportModeOf code = [ReportMode.every, .first, .none][code]? := by
  match code with
  | 0 | 1 | 2 | _ + 3 => rfl

theorem exists_gateOf_eq_some_iff {code : Nat} : (∃ gate, gateOf code = some gate) ↔ code ≤ 4 := by
  rw [gateOf_eq_getElem?, ← Option.isSome_iff_exists, isSome_getElem?]
  exact Nat.lt_succ_iff

theorem exists_reportModeOf_eq_some_iff {code : Nat} : (∃ mode, reportModeOf code = some mode) ↔ code ≤ 2 := by
  rw [reportModeOf_eq_getElem?, ← Option.isSome_iff_exists, isSome_getElem?]
  exact Nat.lt_succ_iff

theorem validScheduleIndex_eq_some_iff {table : Vector (Option (List Phase)) 8} {index : Nat} {k : Fin 8} :
    validScheduleIndex table index = some k ↔ k.val = index ∧ table[k].isSome = true := by
  unfold validScheduleIndex
  constructor
  · intro h
    split at h
    next inside =>
      split at h
      next valid => cases h; exact ⟨rfl, valid⟩
      next => cases h
    next => cases h
  · rintro ⟨rfl, valid⟩
    exact (dif_pos k.isLt).trans (if_pos valid)

/-! ### The load points (R146) -/

section LoadPoints

variable (nn nf ne rate : Nat)

/-- The load points are the least number of thousands that covers the work: a ceiling. -/
theorem loadPoints_le_iff (bound : Nat) :
    loadPoints nn nf ne rate ≤ bound ↔ (2 * nn + 2 * nf + ne) * rate ≤ 1000 * bound := by
  unfold loadPoints
  omega

theorem loadPoints_bounds : (2 * nn + 2 * nf + ne) * rate ≤ 1000 * loadPoints nn nf ne rate ∧
    1000 * loadPoints nn nf ne rate < (2 * nn + 2 * nf + ne) * rate + 1000 := by
  unfold loadPoints
  omega

end LoadPoints

/-! ### The entry (R162, R170) -/

/-- The upper bound that `inRange` puts on the grid alone follows from its bound on the outermost level. -/
theorem Profile.inRange_iff (p : Profile) : p.inRange = true ↔
    p.levelsCode ≤ 3 ∧ 1 ≤ p.grid ∧ (2 ^ (p.levelsCode + 1) - 1) * p.grid ≤ 32767 ∧
    1 ≤ p.nn ∧ p.nn ≤ 64 ∧ p.nf ≤ 64 ∧ p.ne % 2 = 0 ∧ 2 ≤ p.ne ∧ p.ne ≤ 64 ∧
    1 ≤ p.ks ∧ p.ks ≤ 12 ∧ 1 ≤ p.kq ∧ p.kq ≤ 12 ∧
    p.tOff ≤ p.tOn ∧ p.tConv < p.tDiv ∧ p.load ≤ Config.stationLoad := by
  have grid_le (outer : (2 ^ (p.levelsCode + 1) - 1) * p.grid ≤ 32767) : p.grid ≤ 32767 :=
    (Nat.le_mul_of_pos_left _ (Nat.sub_pos_of_lt (Nat.one_lt_two_pow (by omega)))).trans outer
  simp only [Profile.inRange, Bool.and_eq_true, decide_eq_true_eq, beq_iff_eq, and_assoc]
  constructor
  · rintro ⟨code, grid, -, rest⟩
    exact ⟨code, grid, rest⟩
  · rintro ⟨code, grid, outer, rest⟩
    exact ⟨code, grid, grid_le outer, outer, rest⟩

/-- The profile that the image's bytes and the meanings of its four coded fields make, before any range check; it is tied
to the model by `profileAt_eq_some_iff`. -/
def profileOfFields (b : List Byte) (o rate : Nat) (gate : Gate) (report : ReportMode) (schedule : Fin 8) : Profile :=
  { rateCode := byteAt b o, levelsCode := byteAt b (o + 1), grid := twoBytesAt b (o + 2)
    nn := byteAt b (o + 4), nf := byteAt b (o + 5), ne := byteAt b (o + 6), schedule := schedule
    ks := byteAt b (o + 8), kq := byteAt b (o + 9), gate := gate, reportMode := report
    signalRise := (byteAt b (o + 12)).testBit 0, signalFall := (byteAt b (o + 12)).testBit 1
    errorRise := (byteAt b (o + 12)).testBit 2, errorFall := (byteAt b (o + 12)).testBit 3
    clipEnable := (byteAt b (o + 12)).testBit 4
    tOn := fourBytesAt b (o + 16), tOff := fourBytesAt b (o + 20)
    tConv := fourBytesAt b (o + 24), tDiv := fourBytesAt b (o + 28)
    load := loadPoints (byteAt b (o + 4)) (byteAt b (o + 5)) (byteAt b (o + 6)) rate }

/-- The range checks of R162 on the bytes themselves. The load check is the one on the work, since 4096 points cover
exactly 4096000; `profileOfFields_inRange_iff` ties it to the model. -/
def FieldsInRange (b : List Byte) (o rate : Nat) : Prop :=
  byteAt b (o + 1) ≤ 3 ∧
  1 ≤ twoBytesAt b (o + 2) ∧ (2 ^ (byteAt b (o + 1) + 1) - 1) * twoBytesAt b (o + 2) ≤ 32767 ∧
  1 ≤ byteAt b (o + 4) ∧ byteAt b (o + 4) ≤ 64 ∧ byteAt b (o + 5) ≤ 64 ∧
  byteAt b (o + 6) % 2 = 0 ∧ 2 ≤ byteAt b (o + 6) ∧ byteAt b (o + 6) ≤ 64 ∧
  1 ≤ byteAt b (o + 8) ∧ byteAt b (o + 8) ≤ 12 ∧ 1 ≤ byteAt b (o + 9) ∧ byteAt b (o + 9) ≤ 12 ∧
  fourBytesAt b (o + 20) ≤ fourBytesAt b (o + 16) ∧ fourBytesAt b (o + 24) < fourBytesAt b (o + 28) ∧
  (2 * byteAt b (o + 4) + 2 * byteAt b (o + 5) + byteAt b (o + 6)) * rate ≤ 4096000

section Entry

variable {table : Vector (Option (List Phase)) 8} {b : List Byte} {o : Nat}

/-- What a valid entry is: the four coded fields have meanings, and the profile they make passes the range checks. -/
theorem profileAt_eq_some_iff {p : Profile} : profileAt table b o = some p ↔
    ∃ rate gate report schedule,
      symbolRate (byteAt b o) = some rate ∧ gateOf (byteAt b (o + 10)) = some gate ∧
      reportModeOf (byteAt b (o + 11)) = some report ∧ validScheduleIndex table (byteAt b (o + 7)) = some schedule ∧
      (profileOfFields b o rate gate report schedule).inRange = true ∧
      profileOfFields b o rate gate report schedule = p := by
  unfold profileAt
  constructor
  · intro h
    split at h
    next rate gate report schedule hrate hgate hreport hschedule =>
      obtain ⟨checks, fields⟩ := Option.ite_none_right_eq_some.mp h
      exact ⟨rate, gate, report, schedule, hrate, hgate, hreport, hschedule, checks, Option.some.inj fields⟩
    next => cases h
  · rintro ⟨rate, gate, report, schedule, hrate, hgate, hreport, hschedule, checks, rfl⟩
    rw [hrate, hgate, hreport, hschedule]
    exact if_pos checks

theorem profileOfFields_inRange_iff {rate : Nat} {gate : Gate} {report : ReportMode} {schedule : Fin 8} :
    (profileOfFields b o rate gate report schedule).inRange = true ↔ FieldsInRange b o rate := by
  rw [Profile.inRange_iff]
  simp only [profileOfFields, loadPoints_le_iff, Config.stationLoad]
  rfl

/-- Of the four coded fields only the rate enters a range check; of the others it matters that they have a meaning. -/
theorem profileAt_isSome_iff : (profileAt table b o).isSome = true ↔
    ∃ rate, symbolRate (byteAt b o) = some rate ∧ byteAt b (o + 10) ≤ 4 ∧ byteAt b (o + 11) ≤ 2 ∧
      (∃ k : Fin 8, k.val = byteAt b (o + 7) ∧ table[k].isSome = true) ∧ FieldsInRange b o rate := by
  rw [Option.isSome_iff_exists]
  simp only [profileAt_eq_some_iff, profileOfFields_inRange_iff, ← exists_gateOf_eq_some_iff,
    ← exists_reportModeOf_eq_some_iff, ← validScheduleIndex_eq_some_iff]
  constructor
  · rintro ⟨_, rate, gate, report, schedule, hrate, hgate, hreport, hschedule, checks, -⟩
    exact ⟨rate, hrate, ⟨gate, hgate⟩, ⟨report, hreport⟩, ⟨schedule, hschedule⟩, checks⟩
  · rintro ⟨rate, hrate, ⟨gate, hgate⟩, ⟨report, hreport⟩, ⟨schedule, hschedule⟩, checks⟩
    exact ⟨_, rate, gate, report, schedule, hrate, hgate, hreport, hschedule, checks, rfl⟩

end Entry

/-- Settles O11: validity splits into the meanings of the four coded fields and the range checks of the rest; the contents
are the fields of the one profile that these make. The statement lists the checks in the image's order, so the two
conjunctions differ only in how they are arranged. -/
theorem profilesAreChecked : Obligations.ProfilesAreChecked := by
  intro table b o
  constructor
  · rw [profileAt_isSome_iff]
    refine exists_congr fun rate => Iff.of_eq ?sameChecks
    case sameChecks =>
      simp only [FieldsInRange, symbolRate_eq_getElem?, Option.mem_def]
      ac_rfl
  · intro p valid
    obtain ⟨rate, gate, report, schedule, hrate, hgate, hreport, hschedule, -, rfl⟩ := profileAt_eq_some_iff.mp valid
    obtain ⟨index, -⟩ := validScheduleIndex_eq_some_iff.mp hschedule
    exact ⟨rfl, rfl, rfl, rfl, rfl, rfl, index, rfl, rfl, gateOf_eq_getElem? _ ▸ hgate,
      reportModeOf_eq_getElem? _ ▸ hreport, rfl, rfl, rfl, rfl, rfl, rfl, rfl, rfl, rfl, rate,
      symbolRate_eq_getElem? _ ▸ hrate, loadPoints_bounds _ _ _ rate⟩

end Sys2Proof.Machine
end

section
/-! What one command can do to a station, said once: the moves of the loader and the highway interface, which leave the
contexts, the engine and history memory, and the moves that reach them. The laws of every step are proved over the moves. -/

namespace Sys2Proof.Machine

/-! ### Station states (R134, R138, R141) -/

theorem State.onHighway_iff (s : State) :
    s.onHighway = true ↔ s.loader.station = .active ∧ s.highway.lapsed = false := by
  simp [State.onHighway]

theorem State.onHighway_of_active {s : State} (active : s.loader.station = .active) (mark : s.highway.lapsed = false) :
    s.onHighway = true :=
  s.onHighway_iff.mpr ⟨active, mark⟩

/-! ### Changes that leave the standing of a call -/

/-- A call in the place of another one: the fields that other parts of the station look at are kept, but for the far
section, which is the one given. -/
structure Call.Stands (c : Call) (far : FarSection) (d : Call) : Prop where
  lane : d.lane = c.lane
  settings : d.settings = c.settings
  inputQueue : d.inputQueue = c.inputQueue
  far : d.far = far

/-- A call in the place of another one, with its far section kept too. -/
abbrev Call.SameStanding (c d : Call) : Prop := c.Stands c.far d

section Standing

variable (c : Call)

theorem Call.latch_sameStanding (x : Condition) : c.SameStanding (c.latch x) := ⟨by simp, by simp, by simp, by simp⟩

theorem Call.abortExport_sameStanding : c.SameStanding c.abortExport := by
  unfold Call.abortExport
  split
  · exact ⟨by simp, by simp, by simp, by simp⟩
  · exact ⟨rfl, rfl, rfl, rfl⟩

variable {c} in
theorem Call.Stands.trans {d e : Call} {far : FarSection} (h : c.Stands far d) (h' : d.SameStanding e) :
    c.Stands far e :=
  ⟨h'.lane.trans h.lane, h'.settings.trans h.settings, h'.inputQueue.trans h.inputQueue, h'.far.trans h.far⟩

theorem Call.startExport_sameStanding (part : Option TapSection) (first count : Nat) (consistent : Bool) :
    c.SameStanding (c.startExport part first count consistent) := by
  unfold Call.startExport
  split
  · split
    · exact ⟨rfl, rfl, rfl, rfl⟩
    · exact c.latch_sameStanding _
  · exact c.latch_sameStanding _

theorem Call.retrain_sameStanding (zeroEq zeroEcho : Bool) : c.SameStanding (c.retrain zeroEq zeroEcho) :=
  Call.Stands.trans (d := c.restart.retrainTaps zeroEq zeroEcho) ⟨rfl, rfl, rfl, rfl⟩ (Call.abortExport_sameStanding _)

theorem Call.importTaps_sameStanding (part : TapSection) (segment : Nat) (first second : Tap) :
    c.SameStanding (c.importTaps part segment first second) := by
  cases part <;> exact ⟨rfl, rfl, rfl, rfl⟩

theorem Call.afterSegment_sameStanding (e : ExportRecord) : c.SameStanding (c.afterSegment e) := by
  unfold Call.afterSegment
  split
  · exact ⟨by simp, by simp, by simp, by simp⟩
  · exact ⟨rfl, rfl, rfl, rfl⟩

theorem Call.upstreamChoice_sameStanding : c.SameStanding c.upstreamChoice.2 := by
  unfold Call.upstreamChoice
  split
  · exact ⟨rfl, rfl, rfl, rfl⟩
  · split
    · exact ⟨rfl, rfl, rfl, rfl⟩
    · split
      · exact c.afterSegment_sameStanding _
      · exact ⟨rfl, rfl, rfl, rfl⟩

end Standing

/-! ### The moves -/

/-- What a schedule table that the loader goes on with holds: schedules of 1..8 phases (R161). -/
def LoadStep.Checked (step : LoadStep) : Prop :=
  ∀ (table : Vector (Option (List Phase)) 8) (profiles : TableHeader) (k : Fin 8) (phases : List Phase),
    step = .profileTable table profiles → table[k] = some phases → 1 ≤ phases.length ∧ phases.length ≤ 8

/-- What the loader, the highway interface and the adoption unit can do without a context, the engine or history memory. -/
inductive State.StationMove (s : State) : State → Prop
  | nothing : s.StationMove s
  | strapsRead (bits : BitVec 4) : s.loader.station = .reset →
      s.StationMove (((s.withLoader { s.loader with station := .loading }).startRead .signature 0 8).withAdoption
        { s.adoption with stationNumber := some bits })
  | strapsFailed : s.loader.station = .reset →
      s.StationMove (s.withLoader { s.loader with station := .listenOnly, faultLow := true })
  | readOn (step : LoadStep) (address count : Nat) : s.loader.loadStep ≠ .idle → step ≠ .idle → step.Checked →
      s.StationMove (s.startRead step address count)
  | loadFailed : s.loader.loadStep ≠ .idle → s.StationMove s.totalFault
  | loaded (table : Vector (Option (List Phase)) 8) (header : TableHeader) (bytes : List Byte) :
      s.loader.loadStep = .profileTable table header →
      s.StationMove (s.endLoad (profileTableOf table bytes header.profileCount) table)
  | markCounted (clocks : Nat) : s.loader.station = .unsynced → goodFramesAfter s.highway.goodFrames clocks ≠ 64 →
      s.StationMove (s.beginFrame.withHighway
        { s.beginFrame.highway with goodFrames := goodFramesAfter s.highway.goodFrames clocks })
  | markSynced : s.loader.station = .unsynced →
      s.StationMove ((s.beginFrame.withHighway { s.beginFrame.highway with goodFrames := 64 }).withLoader
        { s.loader with station := .active })
  | markFollowed : s.loader.station = .active → s.StationMove s.beginFrame
  | markMissed (count : Nat) :
      s.loader.station = .unsynced ∧ count = 0 ∨ s.loader.station = .active ∧ count = s.highway.goodFrames →
      s.StationMove (s.endFrame.withHighway { s.endFrame.highway with goodFrames := count, lapsed := true })
  | headerSeen (lane : Lane) : s.loader.station = .unsynced ∨ s.loader.station = .active →
      s.StationMove (s.withHighway { s.highway with frameNumber := some lane })
  | periodCounted (t : Nat) : s.highway.watch = some t → t + 1 < Config.watchPeriods →
      s.StationMove (s.withHighway { s.highway with watch := some (t + 1) })
  | watchExpired : s.loader.station = .unsynced →
      s.StationMove (s.withHighway { s.highway with goodFrames := 0, watch := some 0 })
  | bidMade (lane : Lane) : s.onHighway = true → s.StationMove (s.withAdoption { s.adoption with bid := s.bidFor lane })
  | bidEnded : s.onHighway = true → s.StationMove s.endBid
  | entryCleared (lane : Lane) : s.onHighway = true → s.StationMove (s.setAnnounced lane none)
  | bidEndedEntryCleared (lane : Lane) : s.onHighway = true → s.StationMove (s.endBid.setAnnounced lane none)
  | undriven : s.StationMove (s.withHighway { s.highway with upstreamHalf := none })

/-- The outcomes of an entry of the LIVE context `i`, before the engine chooses again. -/
inductive State.Outcome (s : State) (i : CtxNum) (c : Call) : State → Prop
  | nothing : s.Outcome i c s
  | controlled (d : Call) : c.SameStanding d → s.Outcome i c (s.setContext i (.live d))
  | sampled (e : SampleEntry) (ph : Phase) (n : Nat) : s.Outcome i c (s.sampleOutcome i e ph n c)
  | delayed (b : Vector Byte 17) : s.Outcome i c (s.farDelayOutcome i b c)
  | turnedOff (b : Vector Byte 17) : s.Outcome i c (s.farOffOutcome i b c)

/-- What can happen to the contexts, the engine and history memory. -/
inductive State.ContextMove (s : State) : State → Prop
  | reset : s.ContextMove s.underReset
  | lost : s.loader.station = .active → s.ContextMove s.loseHighway
  | won (b : Bid) : s.onHighway = true → s.adoption.bid = some b → s.ContextMove (s.endBid.winRound b)
  | arrived (lane : Lane) (i : CtxNum) (c : Call) (e : Entry) : s.onHighway = true → s.owner lane = some (i, c) →
      s.ContextMove (s.arrive i c e)
  | released (lane : Lane) (entry : Option (BitVec 4)) : s.onHighway = true →
      s.ContextMove ((s.releaseOwner lane).setAnnounced lane entry)
  | written (lane : Lane) (i : CtxNum) (c : Call) (half : UpstreamHalf) : s.onHighway = true →
      s.owner lane = some (i, c) → s.ContextMove ((s.setContext i (.live c.upstreamChoice.2)).withHighway
        { s.highway with upstreamHalf := some half })
  | discarded (j : Job) (c : Call) : s.engine.job = some j → s.contexts[j.context] = .releasing c →
      s.ContextMove (s.endJob.becomeFree j.context).takeNext
  | vanished (j : Job) : s.engine.job = some j → s.contexts[j.context] = .free → s.ContextMove s.endJob.takeNext
  | completed (j : Job) (c : Call) (u : State) : s.engine.job = some j → s.contexts[j.context] = .live c →
      s.endJob.Outcome j.context c u → s.ContextMove u.takeNext

/-! ### The schedules read (R161) -/

theorem length_of_allPresent {α : Type} {l : List (Option α)} {xs : List α} (h : allPresent l = some xs) :
    xs.length = l.length := by
  induction l generalizing xs with
  | nil => cases h; rfl
  | cons o rest ih =>
    cases o with
    | none => cases h
    | some a =>
      obtain ⟨ys, hys, rfl⟩ := Option.map_eq_some_iff.mp h
      simp [ih hys]

/-- A valid schedule has as many phases as its phase count says, 1..8. -/
theorem length_of_scheduleAt {bytes : List Byte} {o : Nat} {phases : List Phase} (h : scheduleAt bytes o = some phases) :
    phases.length = byteAt bytes o ∧ 1 ≤ byteAt bytes o ∧ byteAt bytes o ≤ 8 := by
  obtain ⟨count, present⟩ := Option.ite_none_right_eq_some.mp h
  refine ⟨by simpa using length_of_allPresent present, by simpa using count⟩

theorem scheduleTableOf_get (bytes : List Byte) (count : Nat) (k : Fin 8) :
    (scheduleTableOf bytes count)[k] = if k.val < count then scheduleAt bytes (68 * k.val) else none := by
  simp [scheduleTableOf]

theorem checked_scheduleTableOf (bytes : List Byte) (count : Nat) (header : TableHeader) :
    (LoadStep.profileTable (scheduleTableOf bytes count) header).Checked := by
  rintro _ _ k phases ⟨⟩ h
  rw [scheduleTableOf_get] at h
  obtain ⟨-, valid⟩ := Option.ite_none_right_eq_some.mp h
  obtain ⟨length, bounds⟩ := length_of_scheduleAt valid
  rwa [length]

/-! ### Every command is a move -/

section Moves

variable {s t : State}

theorem execFrameMark_moves (n : Nat) (e : execFrameMark n s = .next t) : s.StationMove t := by
  unfold execFrameMark at e
  split at e
  next station =>
    dsimp only at e
    split at e
    next synced => cases e; rw [synced]; exact .markSynced station
    next other => cases e; exact .markCounted n station other
  next station => cases e; exact .markFollowed station
  all_goals cases e; exact .nothing

theorem execMissingFrameMark_moves (e : execMissingFrameMark s = .next t) : s.StationMove t := by
  unfold execMissingFrameMark at e
  split at e
  next station => cases e; exact .markMissed 0 (.inl ⟨station, rfl⟩)
  next station => cases e; exact .markMissed _ (.inr ⟨station, rfl⟩)
  all_goals cases e; exact .nothing

theorem execHeaderComplete_moves (header : Vector Byte 32) (e : execHeaderComplete header s = .next t) :
    s.StationMove t := by
  have seen (station : s.loader.station = .unsynced ∨ s.loader.station = .active)
      (e : (if s.highway.lapsed then .next s else .next (s.withHighway
        { s.highway with frameNumber := some (headerFrameNumber header) }) : Host.Outcome State Fault Refusal) =
          .next t) : s.StationMove t := by
    split at e
    · cases e; exact .nothing
    · cases e; exact .headerSeen _ station
  unfold execHeaderComplete at e
  split at e
  next station => exact seen (.inl station) e
  next station => exact seen (.inr station) e
  all_goals cases e; exact .nothing

theorem execWatchTimerExpiry_moves (e : execWatchTimerExpiry s = .next t) : s.StationMove t ∨ s.ContextMove t := by
  unfold execWatchTimerExpiry at e
  split at e
  next station => cases e; exact .inr (.lost station)
  next station => cases e; exact .inl (.watchExpired station)
  all_goals cases e; exact .inl .nothing

theorem tick_moves (e : tick s = .next t) : s.StationMove t ∨ s.ContextMove t := by
  unfold tick at e
  split at e
  next n running =>
    split at e
    next before => cases e; exact .inl (.periodCounted n running before)
    next => exact execWatchTimerExpiry_moves e
  next => cases e; exact .inl .nothing

theorem execResetPinReleased_moves (bits : BitVec 4) (parity : Bool) (e : execResetPinReleased bits parity s = .next t) :
    s.StationMove t := by
  unfold execResetPinReleased at e
  split at e
  next station =>
    split at e
    · cases e; exact .strapsRead bits station
    · cases e; exact .strapsFailed station
  next => cases e; exact .nothing

theorem execSignatureBlockRead_moves (bytes : Vector Byte 8) (e : execSignatureBlockRead bytes s = .next t) :
    s.StationMove t := by
  unfold execSignatureBlockRead at e
  split at e
  next step =>
    split at e
    · cases e; exact .readOn _ _ _ (by simp [step]) (by simp) (fun _ _ _ _ h => nomatch h)
    · cases e; exact .loadFailed (by simp [step])
  all_goals cases e; exact .nothing

theorem execHeadersRead_moves (bytes : List Byte) (e : execHeadersRead bytes s = .next t) : s.StationMove t := by
  unfold execHeadersRead at e
  split at e
  next step =>
    have loading : s.loader.loadStep ≠ .idle := by simp [step]
    split at e
    · split at e
      · split at e
        · cases e; exact .readOn _ _ _ loading (by simp) (fun _ _ _ _ h => nomatch h)
        · cases e; exact .loadFailed loading
      · cases e; exact .loadFailed loading
    · cases e; exact .nothing
  all_goals cases e; exact .nothing

theorem execScheduleTableRead_moves (bytes : List Byte) (e : execScheduleTableRead bytes s = .next t) :
    s.StationMove t := by
  unfold execScheduleTableRead at e
  split at e
  next step =>
    split at e
    · cases e; exact .readOn _ _ _ (by simp [step]) (by simp) (checked_scheduleTableOf _ _ _)
    · cases e; exact .nothing
  all_goals cases e; exact .nothing

theorem execProfileTableRead_moves (bytes : List Byte) (e : execProfileTableRead bytes s = .next t) :
    s.StationMove t := by
  unfold execProfileTableRead at e
  split at e
  next step =>
    split at e
    · cases e; exact .loaded _ _ bytes step
    · cases e; exact .nothing
  all_goals cases e; exact .nothing

theorem execRoundStart_moves (e : execRoundStart s = .next t) : s.StationMove t := by
  unfold execRoundStart at e
  split at e
  next on =>
    split at e
    · cases e; exact .bidMade _ on
    · cases e; exact .nothing
  next => cases e; exact .nothing

theorem execRoundOutcome_moves (othersBid : BitVec 37) (othersConfirm : BitVec 5)
    (e : execRoundOutcome othersBid othersConfirm s = .next t) : s.StationMove t ∨ s.ContextMove t := by
  unfold execRoundOutcome at e
  split at e
  next on =>
    split at e
    next b bid =>
      split at e
      · cases e; exact .inr (.won b on bid)
      · split at e
        · cases e; exact .inl (.bidEndedEntryCleared _ on)
        · cases e; exact .inl (.bidEnded on)
    next =>
      split at e
      · split at e
        · cases e; exact .inl (.entryCleared _ on)
        · cases e; exact .inl .nothing
      · cases e; exact .inl .nothing
  next => cases e; exact .inl .nothing

/-- The completion of an entry whose outcome for a LIVE context is one of those above. -/
theorem State.completeFor_moves {j : Job} {outcome : Call → State → State} (job : s.engine.job = some j)
    (ho : ∀ c, s.contexts[j.context] = .live c → s.endJob.Outcome j.context c (outcome c s.endJob)) :
    s.ContextMove (s.completeFor j.context outcome) := by
  rcases s.completeFor_cases j.context outcome with ⟨c, hc, e⟩ | ⟨c, hc, e⟩ | ⟨hc, e⟩
  · rw [e]; exact .completed j c _ job hc (ho c hc)
  · rw [e]; exact .discarded j c job hc
  · rw [e]; exact .vanished j job hc

theorem State.completeControl_moves {isKind : BitVec 4 → Bool} {effect : CtxNum → Vector Byte 17 → Call → State → State}
    (ho : ∀ i b c, s.endJob.Outcome i c (effect i b c s.endJob)) :
    s.StationMove (s.completeControl isKind effect) ∨ s.ContextMove (s.completeControl isKind effect) := by
  rcases s.completeControl_cases isKind effect with ⟨i, e, job, -, h⟩ | h
  · rw [h]; exact .inr (State.completeFor_moves job fun c _ => ho i e.bytes c)
  · rw [h]; exact .inl .nothing

theorem execSampleEntryCompletion_moves (e : execSampleEntryCompletion s = .next t) :
    s.StationMove t ∨ s.ContextMove t := by
  unfold execSampleEntryCompletion at e
  split at e
  next i entry job =>
    split at e
    · split at e
      · cases e; exact .inr (State.completeFor_moves job fun _ _ => .sampled ..)
      · cases e
    all_goals cases e; exact .inr (State.completeFor_moves job fun _ _ => .nothing)
  all_goals cases e; exact .inl .nothing

theorem State.importOutcome_outcome (i : CtxNum) (b : Vector Byte 17) (c : Call) :
    s.Outcome i c (s.importOutcome i b c) := by
  unfold State.importOutcome
  split
  · split
    · exact .controlled _ (c.importTaps_sameStanding ..)
    · exact .controlled _ (c.latch_sameStanding _)
  · exact .controlled _ (c.latch_sameStanding _)

/-- The engine answers an arrival for the owner of the lane, and nothing happens without one or off the highway. -/
theorem arrival_moves {lane : Lane} (entry : Call → Entry)
    (e : (if s.onHighway then match s.owner lane with
        | some (i, c) => .next (s.arrive i c (entry c))
        | none => .next s
      else .next s : Host.Outcome State Fault Refusal) = .next t) : s.StationMove t ∨ s.ContextMove t := by
  split at e
  next on =>
    split at e
    next i c owner => cases e; exact .inr (.arrived lane i c _ on owner)
    next => cases e; exact .inl .nothing
  next => cases e; exact .inl .nothing

theorem execUpstreamWrite_moves (lane : Lane) (e : execUpstreamWrite lane s = .next t) :
    s.StationMove t ∨ s.ContextMove t := by
  unfold execUpstreamWrite at e
  split at e
  next on =>
    split at e
    next i c owner => cases e; exact .inr (.written lane i c _ on owner)
    next => cases e; exact .inl .undriven
  next => cases e; exact .inl .undriven

theorem release_moves (lane : Lane) (entry : Option (BitVec 4))
    (e : (if s.onHighway then .next ((s.releaseOwner lane).setAnnounced lane entry) else .next s :
      Host.Outcome State Fault Refusal) = .next t) : s.StationMove t ∨ s.ContextMove t := by
  split at e
  next on => cases e; exact .inr (.released lane entry on)
  next => cases e; exact .inl .nothing

/-- Every command is a move. -/
theorem exec_moves (c : Instr) (e : exec c s = .next t) : s.StationMove t ∨ s.ContextMove t := by
  cases c with
  | resetPinAsserted => cases e; exact .inr .reset
  | resetPinReleased bits parity => exact .inl (execResetPinReleased_moves bits parity e)
  | signatureBlockRead bytes => exact .inl (execSignatureBlockRead_moves bytes e)
  | headersRead bytes => exact .inl (execHeadersRead_moves bytes e)
  | scheduleTableRead bytes => exact .inl (execScheduleTableRead_moves bytes e)
  | profileTableRead bytes => exact .inl (execProfileTableRead_moves bytes e)
  | frameMark n => exact .inl (execFrameMark_moves n e)
  | missingFrameMark => exact .inl (execMissingFrameMark_moves e)
  | headerComplete header => exact .inl (execHeaderComplete_moves header e)
  | watchTimerExpiry => exact execWatchTimerExpiry_moves e
  | roundStart => exact .inl (execRoundStart_moves e)
  | roundOutcome x y => exact execRoundOutcome_moves x y e
  | sampleArrival lane q b => exact arrival_moves (lane := lane) (fun c => .sample (c.sampleEntry q b)) e
  | controlArrival lane k b => exact arrival_moves (lane := lane) (fun _ => .control { kind := k, bytes := b }) e
  | announce lane profile => exact release_moves lane (some profile) e
  | release lane => exact release_moves lane none e
  | idleArrival => cases e; exact .inl .nothing
  | sampleEntryCompletion => exact execSampleEntryCompletion_moves e
  | freeze => cases e; exact State.completeControl_moves fun _ _ _ => .controlled _ ⟨rfl, rfl, rfl, rfl⟩
  | thaw => cases e; exact State.completeControl_moves fun _ _ _ => .controlled _ ⟨rfl, rfl, rfl, rfl⟩
  | retrain => cases e; exact State.completeControl_moves fun _ _ c => .controlled _ (c.retrain_sameStanding ..)
  | farDelay => cases e; exact State.completeControl_moves fun _ b _ => .delayed b
  | farOff => cases e; exact State.completeControl_moves fun _ b _ => .turnedOff b
  | clear => cases e; exact State.completeControl_moves fun _ _ _ => .controlled _ ⟨rfl, rfl, rfl, rfl⟩
  | exportTaps =>
    cases e
    exact State.completeControl_moves fun _ _ c => .controlled _
      (Call.Stands.trans c.abortExport_sameStanding (c.abortExport.startExport_sameStanding ..))
  | importTaps => cases e; exact State.completeControl_moves fun _ _ _ => State.importOutcome_outcome ..
  | unknownControl => cases e; exact State.completeControl_moves fun _ _ _ => .nothing
  | upstreamWrite lane => exact execUpstreamWrite_moves lane e

/-- Every step is a move of the station, less the command taken from its queue. -/
theorem step_moves (e : step s = .next t) : ∃ queue,
    ({ s with pending := queue } : State).StationMove t ∨ ({ s with pending := queue } : State).ContextMove t := by
  unfold step at e
  split at e
  next c rest _ => exact ⟨rest, exec_moves c e⟩
  next => exact ⟨s.pending, tick_moves e⟩

end Moves

end Sys2Proof.Machine
end

section
/-! Laws of the whole station that the elementary changes of its contexts, its engine and its history memory keep: a law
that they keep is kept by every move of the contexts. -/

namespace Sys2Proof.Machine

/-! ### The elementary changes -/

/-- A law that every elementary change of an entry's outcome keeps. -/
structure OutcomeClosed (P : State → Prop) : Prop where
  changed : ∀ {s : State} {i : CtxNum} {c d : Call}, P s → s.contexts[i] = .live c → c.SameStanding d →
    P (s.setContext i (.live d))
  granted : ∀ {s : State} {i : CtxNum} {need : Nat} {rest : List (CtxNum × Nat)} {c : Call} {delay : Nat}, P s →
    s.history.waitList = (i, need) :: rest → need ≤ s.history.freePages.length → s.contexts[i] = .live c →
    c.far = .waiting delay →
    P ((s.setContext i (.live (c.withFar (.filling (.granted delay (s.history.freePages.take need)))))).withHistory
      { s.history with freePages := s.history.freePages.drop need, waitList := rest })
  skipped : ∀ {s : State} {i : CtxNum} {need : Nat} {rest : List (CtxNum × Nat)}, P s →
    s.history.waitList = (i, need) :: rest → (∀ c delay, s.contexts[i] = .live c → c.far ≠ .waiting delay) →
    P (s.withWaitList rest)
  waitLeft : ∀ {s : State} {i : CtxNum} {c d : Call}, P s → s.contexts[i] = .live c → c.far.isWaiting = true →
    c.Stands .unset d → P ((s.setContext i (.live d)).leaveWaitList i)
  pagesReturned : ∀ {s : State} {i : CtxNum} {c d : Call} {r : Ring}, P s → s.contexts[i] = .live c →
    c.far = .filling r ∨ c.far = .active r → c.Stands .unset d →
    P ((s.setContext i (.live d)).withHistory { s.history with freePages := s.history.freePages ++ r.pages })
  grantedAtOnce : ∀ {s : State} {i : CtxNum} {c d : Call} {delay : Nat}, P s → s.contexts[i] = .live c →
    c.far = .unset → delay + c.settings.nf ≤ 4096 → s.history.waitList = [] →
    pageNeed delay c.settings.nf ≤ s.history.freePages.length →
    c.Stands (.filling (.granted delay (s.history.freePages.take (pageNeed delay c.settings.nf)))) d →
    P ((s.setContext i (.live d)).withHistory
      { s.history with freePages := s.history.freePages.drop (pageNeed delay c.settings.nf) })
  waited : ∀ {s : State} {i : CtxNum} {c d : Call} {delay : Nat}, P s → s.contexts[i] = .live c →
    c.far = .unset → delay + c.settings.nf ≤ 4096 → c.Stands (.waiting delay) d →
    P ((s.setContext i (.live d)).withWaitList (s.history.waitList ++ [(i, pageNeed delay c.settings.nf)]))
  redelayed : ∀ {s : State} {i : CtxNum} {c d : Call} {r : Ring} {delay : Nat}, P s → s.contexts[i] = .live c →
    c.far = .filling r ∨ c.far = .active r → pageNeed delay c.settings.nf ≤ r.pages.length →
    c.Stands (r.redelayed delay c.settings.nf) d → P (s.setContext i (.live d))
  sampled : ∀ {s : State} {i : CtxNum} {c : Call} (e : SampleEntry) (ph : Phase) (n : Nat), P s →
    s.contexts[i] = .live c → P (s.sampleOutcome i e ph n c)

/-- A law that every elementary change keeps. -/
structure StateClosed (P : State → Prop) : Prop extends OutcomeClosed P where
  queued : ∀ {s : State} {i : CtxNum} {c : Call} (queue : List Entry) (last : Option (BitVec 4)), P s →
    s.contexts[i] = .live c → P (s.setContext i (.live { c with inputQueue := queue, lastSequence := last }))
  engine : ∀ {s : State} (x : Engine), P s → P (s.withEngine x)
  reset : ∀ {s : State}, P s → P s.underReset
  withdrawn : ∀ {s : State} {i : CtxNum} {c : Call}, P s → s.contexts[i] = .live c → P (s.leaveLive i)
  freed : ∀ {s : State} {i : CtxNum} {c : Call}, P s → s.contexts[i] = .releasing c →
    P (((s.setContext i .free).withAdoption
      { s.adoption with freeLoad := s.adoption.freeLoad + c.settings.load }).withHistory
      { s.history with freePages := s.history.freePages ++ c.far.pages })
  lost : ∀ {s : State}, P s → s.loader.station = .active →
    (∀ (i : CtxNum) (c : Call), s.contexts[i] ≠ .live c) →
    P (((s.withAdoption { s.adoption with announced := Vector.replicate 64 none, bid := none, confirm := none
        }).withHighway { s.highway with watch := some 0, goodFrames := 0, upstreamHalf := none }).withLoader
      { s.loader with station := .unsynced })
  won : ∀ {s : State} {b : Bid}, P s → s.onHighway = true → s.adoption.bid = some b → P (s.endBid.winRound b)
  announced : ∀ {s : State} (lane : Lane) (entry : Option (BitVec 4)), P s → P (s.releaseOwner lane) →
    s.onHighway = true → P ((s.releaseOwner lane).setAnnounced lane entry)
  driven : ∀ {s : State} (half : UpstreamHalf), P s → s.onHighway = true →
    P (s.withHighway { s.highway with upstreamHalf := some half })

/-! ### The operations of an outcome -/

section Outcome

variable {P : State → Prop} (closed : OutcomeClosed P) {s : State}

include closed

/-- A grant under the wait list that the rule still has to serve. -/
theorem OutcomeClosed.grantPages {i : CtxNum} {need : Nat} {rest : List (CtxNum × Nat)}
    (h : P (s.withWaitList ((i, need) :: rest))) (covered : need ≤ s.history.freePages.length) :
    P ((s.grantPages i need).withWaitList rest) := by
  by_cases waits : ∃ c delay, s.contexts[i] = .live c ∧ c.far = .waiting delay
  · obtain ⟨c, delay, hc, hd⟩ := waits
    have e : s.grantPages i need =
        (s.setContext i (.live (c.withFar (.filling (.granted delay (s.history.freePages.take need)))))).withHistory
          { s.history with freePages := s.history.freePages.drop need } := by
      simp only [State.grantPages, hc, hd]
    rw [e]
    exact closed.granted h rfl covered hc hd
  · have e : s.grantPages i need = s := by
      unfold State.grantPages
      split
      next c hc =>
        split
        next d hd => exact absurd ⟨c, d, hc, hd⟩ waits
        all_goals rfl
      all_goals rfl
    rw [e]
    exact closed.skipped (s := s.withWaitList ((i, need) :: rest)) h rfl fun c delay hc hd => waits ⟨c, delay, hc, hd⟩

theorem OutcomeClosed.grantFrom (w : List (CtxNum × Nat)) {s : State} (h : P (s.withWaitList w)) :
    P (State.grantFrom w s) := by
  induction w generalizing s with
  | nil => exact h
  | cons e rest ih =>
    obtain ⟨i, need⟩ := e
    simp only [State.grantFrom]
    split
    next covered => exact ih (closed.grantPages h covered)
    next => exact h

theorem OutcomeClosed.runGrantRule (h : P s) : P s.runGrantRule := closed.grantFrom _ h

/-- A return of pages is kept when the pages on the tail of the free page list are. -/
theorem OutcomeClosed.returnPages {pages : List Page}
    (h : P (s.withHistory { s.history with freePages := s.history.freePages ++ pages })) : P (s.returnPages pages) :=
  closed.runGrantRule h

/-- A request of a context that holds no pages and does not wait. -/
theorem OutcomeClosed.requestPages {i : CtxNum} {c d : Call} {delay : Nat} (h : P s) (hc : s.contexts[i] = .live c)
    (unset : c.far = .unset) (covers : delay + c.settings.nf ≤ 4096) (hd : c.SameStanding d) :
    P (s.requestPages i d delay (pageNeed delay c.settings.nf)) := by
  unfold State.requestPages
  split
  next now =>
    simp only [Bool.and_eq_true, List.isEmpty_iff, decide_eq_true_eq] at now
    obtain ⟨empty, covered⟩ := now
    exact closed.grantedAtOnce h hc unset covers empty covered ⟨hd.lane, hd.settings, hd.inputQueue, rfl⟩
  next =>
    exact closed.waited h hc unset covers
      (Call.Stands.trans (d := d.withFar (.waiting delay)) ⟨hd.lane, hd.settings, hd.inputQueue, rfl⟩
        (Call.latch_sameStanding _ _))

omit closed in
/-- A run of the grant rule leaves a context that does not wait. -/
theorem State.runGrantRule_get_of_unset {i : CtxNum} {c : Call} (hc : s.contexts[i] = .live c)
    (unset : c.far = .unset) : s.runGrantRule.contexts[i] = .live c := by
  rw [(s.runGrantRule_allocates.contexts i).eq_of_not_waiting, hc]
  intro d hd
  obtain rfl : c = d := by simpa [hc] using hd
  simp [unset, FarSection.isWaiting]

theorem OutcomeClosed.farDelayOutcome {i : CtxNum} {c : Call} (h : P s) (hc : s.contexts[i] = .live c)
    (b : Vector Byte 17) : P (State.farDelayOutcome i b c s) := by
  have unsetStands : c.Stands .unset c.unsetFar := ⟨rfl, rfl, rfl, rfl⟩
  have unsetLive : (s.setContext i (.live c.unsetFar)).contexts[i] = .live c.unsetFar := s.setContext_self ..
  unfold State.farDelayOutcome
  split
  next taken =>
    have covers : delayParameter b + c.settings.nf ≤ 4096 := by
      simp only [Call.farDelayTaken, Bool.and_eq_true, decide_eq_true_eq] at taken
      exact taken.2
    have exchanged {r : Ring} (holds : c.far = .filling r ∨ c.far = .active r) :
        P (s.exchangePages i c r.pages (delayParameter b)) :=
      closed.requestPages (c := c.unsetFar) (closed.returnPages (closed.pagesReturned h hc holds unsetStands))
        (State.runGrantRule_get_of_unset unsetLive rfl) rfl covers ⟨rfl, rfl, rfl, rfl⟩
    unfold State.takeFarDelay
    split
    next => exact h
    next unset => exact closed.requestPages h hc unset covers ⟨rfl, rfl, rfl, rfl⟩
    next delay waiting =>
      exact closed.requestPages (c := c.unsetFar)
        (closed.runGrantRule (closed.waitLeft h hc (by simp [waiting, FarSection.isWaiting]) unsetStands))
        (State.runGrantRule_get_of_unset unsetLive rfl) rfl covers ⟨rfl, rfl, rfl, rfl⟩
    next r filling =>
      split
      next enough =>
        have kept : c.Stands (r.redelayed (delayParameter b) c.settings.nf) (c.keepPages r (delayParameter b)) :=
          ⟨rfl, rfl, rfl, rfl⟩
        split
        · exact closed.redelayed h hc (.inl filling) enough (kept.trans (Call.latch_sameStanding _ _))
        · exact closed.redelayed h hc (.inl filling) enough kept
      next => exact exchanged (.inl filling)
    next r active =>
      split
      next enough => exact closed.redelayed h hc (.inr active) enough ⟨rfl, rfl, rfl, rfl⟩
      next => exact exchanged (.inr active)
  next => exact closed.changed h hc (c.latch_sameStanding _)

theorem OutcomeClosed.farOffOutcome {i : CtxNum} {c : Call} (h : P s) (hc : s.contexts[i] = .live c)
    (b : Vector Byte 17) : P (State.farOffOutcome i b c s) := by
  have unsetStands : c.Stands .unset (c.withFar .unset) := ⟨rfl, rfl, rfl, rfl⟩
  unfold State.farOffOutcome
  split
  next => exact h
  next => exact h
  next delay waiting =>
    exact closed.runGrantRule (closed.waitLeft h hc (by simp [waiting, FarSection.isWaiting]) unsetStands)
  next r filling => exact closed.returnPages (closed.pagesReturned h hc (.inl filling) unsetStands)
  next r active => exact closed.returnPages (closed.pagesReturned h hc (.inr active) unsetStands)

theorem OutcomeClosed.outcome {i : CtxNum} {c : Call} {t : State} (h : P s) (hc : s.contexts[i] = .live c)
    (o : s.Outcome i c t) : P t := by
  cases o with
  | nothing => exact h
  | controlled d hd => exact closed.changed h hc hd
  | sampled e ph n => exact closed.sampled e ph n h hc
  | delayed b => exact closed.farDelayOutcome h hc b
  | turnedOff b => exact closed.farOffOutcome h hc b

end Outcome

/-! ### Contexts at highway loss (R10) -/

/-- What leaving LIVE makes of a context (R7). -/
def Context.withdrawn : Context → Context
  | .live c => .releasing c.withdraw
  | .free => .free
  | .releasing c => .releasing c

/-! ### The moves of the contexts -/

section Move

variable {P : State → Prop} (closed : StateClosed P) {s : State}

include closed

theorem StateClosed.takeNext (h : P s) : P s.takeNext := by
  rcases s.takeNext_cases with ⟨-, e⟩ | ⟨-, -, e⟩ | ⟨-, i, c, x, rest, -, hc, -, e⟩
  · rwa [e]
  · rwa [e]
  · rw [e]
    exact closed.engine _ (closed.queued rest c.lastSequence h hc)

theorem StateClosed.leaveLive (h : P s) (i : CtxNum) : P (s.leaveLive i) := by
  cases hc : s.contexts[i] with
  | live c => exact closed.withdrawn h hc
  | _ => simpa only [State.leaveLive, hc] using h

theorem StateClosed.becomeFree (h : P s) (i : CtxNum) : P (s.becomeFree i) := by
  rcases s.becomeFree_cases i with ⟨c, hc, e⟩ | ⟨-, e⟩
  · rw [e]
    exact closed.returnPages (closed.freed h hc)
  · rwa [e]

theorem StateClosed.letGo (h : P s) (i : CtxNum) : P (s.letGo i) := by
  unfold State.letGo
  split
  · exact h
  · exact closed.becomeFree h i

theorem StateClosed.releaseOwner (h : P s) (lane : Lane) : P (s.releaseOwner lane) := by
  unfold State.releaseOwner
  split
  · unfold State.releaseContext
    split
    · refine closed.letGo ?_ _
      split
      · exact closed.runGrantRule (closed.leaveLive h _)
      · exact closed.leaveLive h _
    all_goals exact h
  · exact h

theorem StateClosed.leaveLiveEach (l : List CtxNum) {s : State} (h : P s) : P (State.leaveLiveEach l s) := by
  induction l generalizing s with
  | nil => exact h
  | cons i rest ih => exact ih (closed.leaveLive h i)

theorem StateClosed.letGoEach (l : List CtxNum) {s : State} (h : P s) : P (State.letGoEach l s) := by
  induction l generalizing s with
  | nil => exact h
  | cons i rest ih => exact ih (closed.letGo h i)

omit closed in
theorem State.leaveLive_of_live {i : CtxNum} {c : Call} (hc : s.contexts[i] = .live c) :
    s.leaveLive i = (s.setContext i (.releasing c.withdraw)).leaveWaitList i := by
  simp only [State.leaveLive, hc]

omit closed in
theorem State.leaveLive_get (i j : CtxNum) :
    (s.leaveLive i).contexts[j] = if j = i then s.contexts[j].withdrawn else s.contexts[j] := by
  unfold State.leaveLive
  split
  next c hc =>
    rw [State.leaveWaitList_contexts, State.setContext_get]
    by_cases h : j = i
    · subst h; simp [hc, Context.withdrawn]
    · simp [h]
  all_goals
    next hc =>
      by_cases h : j = i
      · subst h; simp [hc, Context.withdrawn]
      · simp [h]

omit closed in
theorem State.leaveLiveEach_get (l : List CtxNum) (s : State) (j : CtxNum) :
    (State.leaveLiveEach l s).contexts[j] = if j ∈ l then s.contexts[j].withdrawn else s.contexts[j] := by
  induction l generalizing s with
  | nil => simp [State.leaveLiveEach]
  | cons i rest ih =>
    rw [State.leaveLiveEach, ih, State.leaveLive_get]
    by_cases h : j = i
    · subst h; cases s.contexts[j] <;> simp [Context.withdrawn]
    · simp [h]

end Move

/-- Letting go of a context where none is LIVE: it is FREE unless the engine is working on it. No other context changes, as
none waits for pages. -/
theorem State.letGo_get {s : State} (noneLive : ∀ (i : CtxNum) (c : Call), s.contexts[i] ≠ .live c) (i j : CtxNum) :
    (s.letGo i).contexts[j] = if j = i ∧ s.engineOn i = false then .free else s.contexts[j] := by
  cases on : s.engineOn i with
  | true => simp [State.letGo, on]
  | false =>
    have left : s.letGo i = s.becomeFree i := by simp [State.letGo, on]
    rw [left]
    rcases s.becomeFree_cases i with ⟨c, -, e⟩ | ⟨notReleasing, e⟩
    · have get : (s.becomeFree i).contexts[j] = (s.setContext i .free).contexts[j] := by
        rw [e]
        refine ((State.returnPages_allocates _ _).contexts j).eq_of_not_waiting fun d hd => ?_
        rw [State.withAdoption_contexts, State.setContext_get] at hd
        split at hd
        · cases hd
        · exact absurd hd (noneLive j d)
      rw [get, State.setContext_get]
      simp
    · have free : s.contexts[i] = .free := by
        cases h : s.contexts[i] with
        | free => rfl
        | live c => exact absurd h (noneLive i c)
        | releasing c => exact absurd h (notReleasing c)
      rw [e]
      split
      next h => rw [h.1, free]
      next => rfl

theorem State.letGo_engineOn (s : State) (i j : CtxNum) : (s.letGo i).engineOn j = s.engineOn j := by
  unfold State.letGo
  split
  · rfl
  · simp [State.engineOn]

theorem State.letGoEach_get (l : List CtxNum) {s : State}
    (noneLive : ∀ (i : CtxNum) (c : Call), s.contexts[i] ≠ .live c) (j : CtxNum) :
    (State.letGoEach l s).contexts[j] = if j ∈ l ∧ s.engineOn j = false then .free else s.contexts[j] := by
  induction l generalizing s with
  | nil => simp [State.letGoEach]
  | cons i rest ih =>
    have still (k : CtxNum) (c : Call) : (s.letGo i).contexts[k] ≠ .live c := by
      rw [State.letGo_get noneLive]
      split
      · simp
      · exact noneLive k c
    rw [State.letGoEach, ih still, State.letGo_engineOn, State.letGo_get noneLive]
    by_cases h : j = i
    · subst h; simp +contextual
    · simp [h]

theorem State.leaveLiveEach_noneLive (s : State) (i : CtxNum) (c : Call) :
    (State.leaveLiveEach (List.finRange 24) s).contexts[i] ≠ .live c := by
  rw [State.leaveLiveEach_get, if_pos (List.mem_finRange i)]
  cases s.contexts[i] <;> simp [Context.withdrawn]

theorem State.leaveLiveEach_fields (l : List CtxNum) (s : State) :
    (State.leaveLiveEach l s).loader = s.loader ∧ (State.leaveLiveEach l s).highway = s.highway ∧
    (State.leaveLiveEach l s).adoption = s.adoption ∧ (State.leaveLiveEach l s).engine = s.engine ∧
    (State.leaveLiveEach l s).pending = s.pending ∧ (State.leaveLiveEach l s).history.cells = s.history.cells ∧
    (State.leaveLiveEach l s).history.freePages = s.history.freePages := by
  induction l generalizing s with
  | nil => exact ⟨rfl, rfl, rfl, rfl, rfl, rfl, rfl⟩
  | cons i rest ih => simpa [State.leaveLiveEach] using ih (s.leaveLive i)

@[simp] theorem State.letGo_fields (s : State) (i : CtxNum) :
    (s.letGo i).loader = s.loader ∧ (s.letGo i).highway = s.highway ∧ (s.letGo i).engine = s.engine ∧
    (s.letGo i).pending = s.pending ∧ (s.letGo i).history.cells = s.history.cells := by
  unfold State.letGo
  split
  · exact ⟨rfl, rfl, rfl, rfl, rfl⟩
  · exact s.becomeFree_fields i

theorem State.letGoEach_fields (l : List CtxNum) (s : State) :
    (State.letGoEach l s).loader = s.loader ∧ (State.letGoEach l s).highway = s.highway ∧
    (State.letGoEach l s).engine = s.engine ∧ (State.letGoEach l s).pending = s.pending ∧
    (State.letGoEach l s).history.cells = s.history.cells := by
  induction l generalizing s with
  | nil => exact ⟨rfl, rfl, rfl, rfl, rfl⟩
  | cons i rest ih =>
    obtain ⟨h1, h2, h3, h4, h5⟩ := ih (s.letGo i)
    obtain ⟨g1, g2, g3, g4, g5⟩ := s.letGo_fields i
    exact ⟨h1.trans g1, h2.trans g2, h3.trans g3, h4.trans g4, h5.trans g5⟩

/-- The station at highway loss once its contexts are released, before the highway interface and the adoption unit follow
(R10). -/
def State.released (s : State) : State :=
  State.letGoEach (List.finRange 24) (State.leaveLiveEach (List.finRange 24) s)

theorem State.loseHighway_eq (s : State) : s.loseHighway =
    ((s.released.withAdoption { s.released.adoption with
        announced := Vector.replicate 64 none, bid := none, confirm := none }).withHighway
      { s.highway with watch := some 0, goodFrames := 0, upstreamHalf := none }).withLoader
      { s.loader with station := .unsynced } := by
  unfold State.loseHighway State.released
  rfl

theorem State.released_fields (s : State) : s.released.loader = s.loader ∧ s.released.highway = s.highway ∧
    s.released.engine = s.engine ∧ s.released.pending = s.pending ∧ s.released.history.cells = s.history.cells := by
  obtain ⟨h1, h2, -, h3, h4, h5, -⟩ := State.leaveLiveEach_fields (List.finRange 24) s
  obtain ⟨g1, g2, g3, g4, g5⟩ := State.letGoEach_fields (List.finRange 24) (State.leaveLiveEach (List.finRange 24) s)
  unfold State.released
  exact ⟨g1.trans h1, g2.trans h2, g3.trans h3, g4.trans h4, g5.trans h5⟩

/-- At highway loss a context that the engine is working on is RELEASING, and every other is FREE (R10). -/
theorem State.released_get (s : State) (i : CtxNum) :
    s.released.contexts[i] = if s.engineOn i then s.contexts[i].withdrawn else .free := by
  obtain ⟨-, -, -, engine, -⟩ := State.leaveLiveEach_fields (List.finRange 24) s
  have on : (State.leaveLiveEach (List.finRange 24) s).engineOn i = s.engineOn i := by rw [State.engineOn, engine]; rfl
  rw [State.released, State.letGoEach_get _ s.leaveLiveEach_noneLive, on, State.leaveLiveEach_get]
  cases s.engineOn i <;> simp

theorem State.released_noneLive (s : State) (i : CtxNum) (c : Call) : s.released.contexts[i] ≠ .live c := by
  rw [State.released_get]
  split
  · cases s.contexts[i] <;> simp [Context.withdrawn]
  · simp

theorem StateClosed.contextMove {P : State → Prop} (closed : StateClosed P) {s t : State} (h : P s)
    (m : s.ContextMove t) : P t := by
  have ended : P s.endJob := closed.engine _ h
  cases m with
  | reset => exact closed.reset h
  | lost active =>
    have kept : P s.released := by
      unfold State.released
      exact closed.letGoEach _ (closed.leaveLiveEach _ h)
    obtain ⟨loader, highway, -⟩ := s.released_fields
    rw [State.loseHighway_eq, ← loader, ← highway]
    exact closed.lost kept (loader.symm ▸ active) s.released_noneLive
  | won b on bid => exact closed.won h on bid
  | arrived lane i c e on owner =>
    obtain ⟨live, -⟩ := State.owner_eq_some owner
    unfold State.arrive
    split
    · exact closed.takeNext (closed.queued _ _ h live)
    · exact closed.changed h live (c.latch_sameStanding _)
  | released lane entry on => exact closed.announced lane entry h (closed.releaseOwner h lane) on
  | written lane i c half on owner =>
    obtain ⟨live, -⟩ := State.owner_eq_some owner
    exact closed.driven half (closed.changed h live c.upstreamChoice_sameStanding) on
  | discarded j c job releasing => exact closed.takeNext (closed.becomeFree ended _)
  | vanished j job free => exact closed.takeNext ended
  | completed j c u job live outcome => exact closed.takeNext (closed.outcome ended live outcome)

/-- A law that the elementary changes keep, and that the moves of the station keep, is kept by every step. The law may hold
of the next state alone, and of the present one with more. -/
theorem StateClosed.step {P : State → Prop} (closed : StateClosed P) {s t : State}
    (queue : ∀ q, P { s with pending := q })
    (station : ∀ q, ({ s with pending := q } : State).StationMove t → P t) (e : step s = .next t) : P t := by
  obtain ⟨q, m | m⟩ := step_moves e
  · exact station q m
  · exact closed.contextMove (queue q) m

end Sys2Proof.Machine
end

section
/-! Pages, history memory and load: what every step keeps (R57, R58, R147, R148). -/

namespace Sys2Proof.Machine

/-! ### What a move of the station leaves -/

theorem State.endLoad_frame (s : State) (p : Vector (Option Profile) 16) (q : Vector (Option (List Phase)) 8) :
    (s.endLoad p q).contexts = s.contexts ∧ (s.endLoad p q).engine = s.engine ∧ (s.endLoad p q).history = s.history ∧
    (s.endLoad p q).adoption = s.adoption ∧ (s.endLoad p q).pending = s.pending := by
  unfold State.endLoad
  split <;> exact ⟨rfl, rfl, rfl, rfl, rfl⟩

theorem State.StationMove.frame {s t : State} (m : s.StationMove t) : t.contexts = s.contexts ∧ t.engine = s.engine ∧
    t.history = s.history ∧ t.adoption.freeLoad = s.adoption.freeLoad := by
  have ended (p q) : (s.endLoad p q).contexts = s.contexts ∧ (s.endLoad p q).engine = s.engine ∧
      (s.endLoad p q).history = s.history ∧ (s.endLoad p q).adoption.freeLoad = s.adoption.freeLoad := by
    obtain ⟨contexts, engine, history, adoption, -⟩ := s.endLoad_frame p q
    exact ⟨contexts, engine, history, by rw [adoption]⟩
  cases m with
  | loadFailed => exact ended ..
  | loaded => exact ended ..
  | _ => exact ⟨rfl, rfl, rfl, rfl⟩

/-! ### Sums over the contexts -/

section Sums

variable {s : State} {i : CtxNum}

/-- A context replaced by one that holds the same pages leaves every page where it is. -/
theorem State.pageCount_setContext_of_pages {x : Context} (h : x.pages = s.contexts[i].pages) (p : Page) :
    (s.setContext i x).pageCount p = s.pageCount p := by
  have := s.pageCount_setContext i x p
  rw [h] at this
  omega

/-- The free page list replaced together with the pages of one context. -/
theorem State.pageCount_exchange {x : Context} {free : History} {p : Page}
    (h : free.freePages.count p + x.pages.count p = s.history.freePages.count p + s.contexts[i].pages.count p) :
    ((s.setContext i x).withHistory free).pageCount p = s.pageCount p := by
  have := s.pageCount_setContext i x p
  simp only [State.pageCount, State.withHistory_history, State.withHistory_contexts, State.setContext_history] at this ⊢
  omega

end Sums

/-! ### Pages (R58) -/

theorem count_take_add_count_drop (pages : List Page) (n : Nat) (p : Page) :
    (pages.drop n).count p + (pages.take n).count p = pages.count p := by
  rw [Nat.add_comm, ← List.count_append, List.take_append_drop]

@[simp] theorem FarSection.pages_unset : FarSection.unset.pages = [] := rfl

theorem FarSection.pages_of_not_held {far : FarSection} (h : far = .unset ∨ far.isWaiting = true) : far.pages = [] := by
  rcases h with rfl | h
  · rfl
  · cases far <;> simp_all [FarSection.isWaiting, FarSection.pages]

theorem FarSection.pages_of_held {far : FarSection} {r : Ring} (h : far = .filling r ∨ far = .active r) :
    far.pages = r.pages := by
  rcases h with rfl | rfl <;> rfl

theorem Ring.redelayed_pages (r : Ring) (delay nf : Nat) : (r.redelayed delay nf).pages = r.pages := by
  unfold Ring.redelayed
  split <;> rfl

theorem Call.withdraw_pages (c : Call) : c.withdraw.far.pages = c.far.pages := by
  unfold Call.withdraw
  cases c.far <;> rfl

theorem pageCount_reset (s : State) (p : Page) : s.underReset.pageCount p = 1 := by
  have free : (List.finRange 256).count p = 1 := List.count_eq_one_of_mem (List.nodup_finRange 256) (List.mem_finRange p)
  simp [State.pageCount, State.underReset, History.reset, Context.pages, free]

/-- R58 as a law over the page counts: no elementary change loses or makes a page. -/
theorem pagesAccounted_closed : StateClosed fun s => ∀ p, s.pageCount p = 1 where
  reset _ := pageCount_reset _
  changed h hc hd p := by
    rw [State.pageCount_setContext_of_pages (by simp [hc, Context.pages, hd.far]), h]
  queued _ _ h hc p := by
    rw [State.pageCount_setContext_of_pages (by simp [hc, Context.pages]), h]
  engine _ h := h
  granted h _ _ hc hd p := by
    rw [State.pageCount_exchange, h]
    simp [hc, Context.pages, hd, FarSection.pages, Call.withFar, Ring.granted, count_take_add_count_drop]
  skipped h _ _ := h
  waitLeft h hc waiting hd p := by
    rw [← h p]
    refine State.pageCount_setContext_of_pages (i := _) (x := .live _) ?_ p
    simp [hc, Context.pages, hd.far, FarSection.pages_of_not_held (.inr waiting)]
  pagesReturned h hc holds hd p := by
    rw [State.pageCount_exchange, h]
    simp [hc, Context.pages, FarSection.pages_of_held holds, hd.far]
  grantedAtOnce h hc unset _ _ _ hd p := by
    rw [State.pageCount_exchange, h]
    simp [hc, Context.pages, unset, hd.far, FarSection.pages, Ring.granted, count_take_add_count_drop]
  waited h hc unset _ hd p := by
    rw [← h p]
    refine State.pageCount_setContext_of_pages (i := _) (x := .live _) ?_ p
    simp [hc, Context.pages, hd.far, unset, FarSection.pages]
  redelayed h hc holds _ hd p := by
    rw [State.pageCount_setContext_of_pages, h]
    simp [hc, Context.pages, hd.far, Ring.redelayed_pages, FarSection.pages_of_held holds]
  sampled e ph n h hc p := by
    rw [State.sampleOutcome, State.pageCount_exchange, h]
    simp [hc, Context.pages, Progress.complete, (sampleStages_far ph n e _ _).1]
  withdrawn {s i c} h hc p := by
    rw [State.leaveLive_of_live hc, ← h p]
    refine State.pageCount_setContext_of_pages (x := .releasing _) ?_ p
    simp [hc, Context.pages, c.withdraw_pages]
  freed {s i c} h hc p := by
    rw [← h p]
    refine State.pageCount_exchange (x := .free) (i := i) ?_
    simp [hc, Context.pages]
  lost h _ _ := h
  won {s b} h _ _ p := by
    rw [← h p]
    rcases s.endBid.winRound_cases b with ⟨profile, -, e⟩ | ⟨-, e⟩
    · rw [e]
      rcases s.endBid.adopt_cases b.lane b.profile profile with ⟨i, -, free, e'⟩ | ⟨-, e'⟩
      · rw [e']
        refine State.pageCount_setContext_of_pages (s := s) (x := .live _) ?_ p
        have free : s.contexts[i] = .free := free
        rw [free]
        unfold Context.pages adoptedCall
        dsimp only
        split <;> rfl
      · rw [e']; rfl
    · rw [e]; rfl
  announced _ _ _ h _ := h
  driven _ h _ := h

theorem historyCanonical_closed : StateClosed State.HistoryCanonical where
  reset h := h
  changed h _ _ := h
  queued _ _ h _ := h
  engine _ h := h
  granted h _ _ _ _ := h
  skipped h _ _ := h
  waitLeft h _ _ _ := h
  pagesReturned h _ _ _ := h
  grantedAtOnce h _ _ _ _ _ _ := h
  waited h _ _ _ _ := h
  redelayed h _ _ _ _ := h
  sampled e ph n h _ := (sampleStages_far ph n e _ _).2.2 h
  withdrawn {s i c} h _ := by
    unfold State.HistoryCanonical
    rw [State.leaveLive_cells]
    exact h
  freed h _ := h
  lost h _ _ := h
  won {s b} h _ _ := by
    rcases s.endBid.winRound_cases b with ⟨profile, -, e⟩ | ⟨-, e⟩
    · rcases s.endBid.adopt_cases b.lane b.profile profile with ⟨i, -, -, e'⟩ | ⟨-, e'⟩ <;> rw [e, e'] <;> exact h
    · rw [e]; exact h
  announced _ _ _ h _ := h
  driven _ h _ := h

/-- Settles O52: no elementary change loses or makes a page, and only a SAMPLE entry writes history memory. -/
theorem pagesStayAccounted : Obligations.PagesStayAccounted := by
  intro s t e
  constructor
  · intro (accounted : ∀ p, s.pageCount p = 1)
    refine pagesAccounted_closed.step (fun _ => accounted) (fun q m p => ?_) e
    obtain ⟨contexts, -, history, -⟩ := m.frame
    rw [State.pageCount, contexts, history]
    exact accounted p
  · intro canonical
    refine historyCanonical_closed.step (fun _ => canonical) (fun q m => ?_) e
    obtain ⟨-, -, history, -⟩ := m.frame
    rw [State.HistoryCanonical, history]
    exact canonical

end Sys2Proof.Machine
end

section
/-! The load of the station: what every step keeps (R147, R148). -/

namespace Sys2Proof.Machine

/-! ### FREE contexts (R5) -/

theorem Context.isFree_iff (x : Context) : x.isFree = true ↔ x = .free := by cases x <;> simp [Context.isFree]

theorem State.lowestFree_isSome_iff (s : State) : s.lowestFree.isSome = true ↔ ∃ i : CtxNum, s.contexts[i] = .free := by
  rw [State.lowestFree, List.find?_isSome]
  simp [Context.isFree_iff]

section Load

variable {s t : State}

/-- What keeps the law: the total is the same, and what a bid rests on is still there. -/
theorem State.LoadAccounted.of_covered (h : s.LoadAccounted)
    (total : t.adoption.freeLoad + ∑ i : CtxNum, t.contexts[i].load = s.adoption.freeLoad + ∑ i : CtxNum, s.contexts[i].load)
    (bid : ∀ b, t.adoption.bid = some b → s.adoption.bid = some b)
    (profiles : t.loader.profiles = s.loader.profiles)
    (free : ∀ i : CtxNum, s.contexts[i] = .free → t.contexts[i] = .free)
    (le : s.adoption.freeLoad ≤ t.adoption.freeLoad) : t.LoadAccounted := by
  obtain ⟨all, covered⟩ := h
  refine ⟨total.trans all, fun b hb => ?_⟩
  obtain ⟨some, p, hp, load⟩ := covered b (bid b hb)
  obtain ⟨i, hi⟩ := s.lowestFree_isSome_iff.mp some
  exact ⟨t.lowestFree_isSome_iff.mpr ⟨i, free i hi⟩, p, by rw [profiles, hp], load.trans le⟩

/-- A context that is not FREE replaced by one of the same load. -/
theorem State.LoadAccounted.set (h : s.LoadAccounted) {i : CtxNum} {x : Context} (used : s.contexts[i] ≠ .free)
    (load : x.load = s.contexts[i].load) : (s.setContext i x).LoadAccounted := by
  refine h.of_covered ?_ (fun _ hb => hb) rfl (fun j hj => ?_) le_rfl
  · have := s.sum_setContext i x Context.load
    simp only [State.setContext_adoption]
    omega
  · rw [State.setContext_get, if_neg, hj]
    rintro rfl
    exact used hj

theorem State.LoadAccounted.set_live (h : s.LoadAccounted) {i : CtxNum} {c d : Call} (hc : s.contexts[i] = .live c)
    (settings : d.settings = c.settings) : (s.setContext i (.live d)).LoadAccounted :=
  h.set (by simp [hc]) (by simp [hc, Context.load, settings])

/-- Without a bid only the total counts. -/
theorem State.LoadAccounted.of_no_bid
    (total : s.adoption.freeLoad + ∑ i : CtxNum, s.contexts[i].load = 4096) (bid : s.adoption.bid = none) :
    s.LoadAccounted :=
  ⟨total, fun b hb => by simp [bid] at hb⟩

/-- A won round moves the load points of the profile bid for from the free load to the context adopted (R150). -/
theorem State.LoadAccounted.winRound (h : s.LoadAccounted) {b : Bid} (bid : s.adoption.bid = some b) :
    (s.endBid.winRound b).LoadAccounted := by
  obtain ⟨total, covered⟩ := h
  obtain ⟨-, p, hp, load⟩ := covered b bid
  have ended : s.endBid.LoadAccounted := .of_no_bid total rfl
  rcases s.endBid.winRound_cases b with ⟨q, hq, e⟩ | ⟨-, e⟩
  · obtain rfl : p = q := Option.some.inj (hp.symm.trans hq)
    rw [e]
    rcases s.endBid.adopt_cases b.lane b.profile p with ⟨i, -, free, e'⟩ | ⟨-, e'⟩
    · rw [e']
      refine .of_no_bid ?_ rfl
      have sum := s.endBid.sum_setContext i (.live (adoptedCall b.lane b.profile p)) Context.load
      rw [free] at sum
      simp only [Context.load, adoptedCall, State.endBid_contexts, State.withAdoption_adoption,
        State.withAdoption_contexts, State.endBid_adoption_freeLoad, Config.stationLoad] at sum total ⊢
      omega
    · rw [e']; exact .of_no_bid total rfl
  · rw [e]; exact ended

theorem loadAccounted_closed : StateClosed State.LoadAccounted where
  changed h hc hd := h.set_live hc hd.settings
  queued _ _ h hc := h.set_live hc rfl
  engine _ h := h
  granted h _ _ hc _ := h.set_live hc rfl
  skipped h _ _ := h
  waitLeft h hc _ hd := h.set_live hc hd.settings
  pagesReturned h hc _ hd := h.set_live hc hd.settings
  grantedAtOnce h hc _ _ _ _ hd := h.set_live hc hd.settings
  waited h hc _ _ hd := h.set_live hc hd.settings
  redelayed h hc _ _ hd := h.set_live hc hd.settings
  sampled e ph n h hc := h.set_live hc (by simp [Progress.complete, (sampleStages_sameOwner ph n e _ _).settings])
  reset {s} _ := .of_no_bid (by simp [State.underReset, Adoption.reset, Context.load]) rfl
  withdrawn {s i c} h hc := by
    rw [State.leaveLive_of_live hc]
    exact h.set (x := .releasing c.withdraw) (by simp [hc]) (by rw [hc]; rfl)
  freed {s i c} h hc := by
    refine h.of_covered ?_ (fun _ hb => hb) rfl (fun j hj => ?_) (Nat.le_add_right ..)
    · have := s.sum_setContext i .free Context.load
      rw [hc] at this
      simp only [Context.load, State.withHistory_adoption, State.withAdoption_adoption, State.withHistory_contexts, State.withAdoption_contexts] at *
      omega
    · rw [State.withHistory_contexts, State.withAdoption_contexts, State.setContext_get]
      split
      · rfl
      · exact hj
  lost h _ _ := .of_no_bid h.1 rfl
  won h _ bid := h.winRound bid
  announced _ _ _ h _ := h
  driven _ h _ := h

/-- What a station bids with: the entry of the lane, its valid profile, a FREE context and the spare load (R148, R149). -/
theorem State.bidFor_eq_some {lane : Lane} {b : Bid} (hb : s.bidFor lane = some b) :
    b.lane = lane ∧ ∃ n p, s.adoption.announced[lane] = some n ∧ b.profile = n.toFin ∧
      s.loader.profiles[b.profile] = some p ∧ s.lowestFree.isSome = true ∧ p.load ≤ s.adoption.freeLoad ∧
      b.value = bidValue (s.adoption.freeLoad - p.load) s.adoption.serial := by
  unfold State.bidFor at hb
  split at hb
  next k p named =>
    obtain ⟨eligible, rfl⟩ := Option.ite_none_right_eq_some.mp hb |>.imp id Option.some.inj
    simp only [Bool.and_eq_true, decide_eq_true_eq] at eligible
    obtain ⟨free, load⟩ := eligible
    unfold State.announcedProfile at named
    split at named
    next n entry =>
      obtain ⟨q, hq, e⟩ := Option.map_eq_some_iff.mp named
      obtain ⟨rfl, rfl⟩ := Prod.mk.inj e
      exact ⟨rfl, n, q, entry, rfl, hq, free, load, rfl⟩
    next => cases named
  next => cases hb

/-- A bid is covered when it is made (R148). -/
theorem State.LoadAccounted.bidFor (h : s.LoadAccounted) (lane : Lane) :
    (s.withAdoption { s.adoption with bid := s.bidFor lane }).LoadAccounted := by
  refine ⟨h.1, fun b hb => ?_⟩
  obtain ⟨-, n, p, -, -, hp, free, load, -⟩ := State.bidFor_eq_some hb
  exact ⟨free, p, hp, load⟩

/-- A load in progress leaves no bid (R138, R159). -/
theorem State.StationRow.no_bid_of_loading (row : s.StationRow) (loading : s.loader.loadStep ≠ .idle) :
    s.adoption.bid = none := by
  have station := row.loading.mp loading
  exact (row.silent (by simp [station])).2.1

theorem State.StationRow.congr (row : s.StationRow) (loader : t.loader = s.loader) (highway : t.highway = s.highway)
    (adoption : t.adoption = s.adoption) (contexts : t.contexts = s.contexts) : t.StationRow := by
  cases s
  cases t
  subst loader highway adoption contexts
  exact ⟨row.faultPin, row.loading, row.spi, row.noFrame, row.watch, row.watchRuns, row.goodActive, row.goodUnsynced,
    row.goodOther, row.silent, row.live, row.free, row.served, row.numbered⟩

theorem State.StationRow.queue (row : s.StationRow) (queue : List Instr) :
    ({ s with pending := queue } : State).StationRow :=
  row.congr rfl rfl rfl rfl

theorem State.StationMove.loadAccounted (m : s.StationMove t) (row : s.StationRow) (h : s.LoadAccounted) :
    t.LoadAccounted := by
  have noBid (p q) (loading : s.loader.loadStep ≠ .idle) : (s.endLoad p q).LoadAccounted := by
    obtain ⟨contexts, -, -, adoption, -⟩ := s.endLoad_frame p q
    refine .of_no_bid ?_ (adoption ▸ row.no_bid_of_loading loading)
    rw [contexts, adoption]
    exact h.1
  cases m with
  | loadFailed loading => exact noBid _ _ loading
  | loaded _ _ _ step => exact noBid _ _ (by simp [step])
  | markCounted | markSynced | markFollowed | markMissed | bidEnded | bidEndedEntryCleared => exact .of_no_bid h.1 rfl
  | bidMade lane => exact h.bidFor lane
  | _ => exact h

/-- Settles O54: load points move between the free load and the contexts alone; a bid is covered when it is made, and
until it ends no load is taken and no table changes. -/
theorem loadStaysAccounted : Obligations.LoadStaysAccounted := fun _ _ row h =>
  loadAccounted_closed.step (fun _ => h) fun q m => m.loadAccounted (row.queue q) h

end Load

end Sys2Proof.Machine
end

section
/-! Lanes and the engine: what every step keeps (R4, R8, R21, R22). -/

namespace Sys2Proof.Machine

/-! ### LIVE contexts that stay on their lanes -/

/-- Every LIVE context of `t` is LIVE in `s`, on the same lane. -/
def State.LiveFrom (s t : State) : Prop :=
  ∀ (i : CtxNum) (d : Call), t.contexts[i] = .live d → ∃ c, s.contexts[i] = .live c ∧ d.lane = c.lane

section Lanes

variable {s t : State}

theorem State.LiveFrom.of_contexts (h : t.contexts = s.contexts) : s.LiveFrom t := fun i d hd =>
  ⟨d, by rw [← h]; exact hd, rfl⟩

theorem State.liveFrom_set {i : CtxNum} {c d : Call} (hc : s.contexts[i] = .live c) (lane : d.lane = c.lane) :
    s.LiveFrom (s.setContext i (.live d)) := fun j x hx => by
  rw [State.setContext_get] at hx
  split at hx
  next h => cases hx; exact ⟨c, h ▸ hc, lane⟩
  next => exact ⟨x, hx, rfl⟩

theorem State.liveFrom_set_of_not_live {i : CtxNum} {x : Context} (hx : ∀ d, x ≠ .live d) :
    s.LiveFrom (s.setContext i x) := fun j y hy => by
  rw [State.setContext_get] at hy
  split at hy
  next => exact absurd hy (hx y)
  next => exact ⟨y, hy, rfl⟩

/-- A lane that has no owner gets none. -/
theorem State.LiveFrom.owner_eq_none (h : s.LiveFrom t) {lane : Lane} (none : s.owner lane = none) :
    t.owner lane = .none :=
  State.owner_eq_none.mpr fun i d hd => by
    obtain ⟨c, hc, lane⟩ := h i d hd
    rw [lane]
    exact State.owner_eq_none.mp none i c hc

/-- No context becomes LIVE, and no entry or bid comes up: the law of the lanes is kept. -/
theorem State.LanesOwnedOnce.of_liveFrom (h : s.LanesOwnedOnce) (live : s.LiveFrom t)
    (announced : ∀ (k : Lane) (n : BitVec 4), t.adoption.announced[k] = some n → s.adoption.announced[k] = some n)
    (bid : ∀ b, t.adoption.bid = some b → s.adoption.bid = some b) : t.LanesOwnedOnce := by
  obtain ⟨once, unowned, unownedBid⟩ := h
  refine ⟨fun i j c d hc hd lane => ?_, fun k n hn => live.owner_eq_none (unowned k n (announced k n hn)),
    fun b hb => live.owner_eq_none (unownedBid b (bid b hb))⟩
  obtain ⟨c', hc', lanec⟩ := live i c hc
  obtain ⟨d', hd', laned⟩ := live j d hd
  exact once i j c' d' hc' hd' (by rw [← lanec, ← laned, lane])

/-- The adoption unit is left. -/
theorem State.LanesOwnedOnce.kept (h : s.LanesOwnedOnce) (live : s.LiveFrom t) (adoption : t.adoption = s.adoption) :
    t.LanesOwnedOnce :=
  h.of_liveFrom live (fun _ _ hn => adoption ▸ hn) fun _ hb => adoption ▸ hb

theorem State.LanesOwnedOnce.set (h : s.LanesOwnedOnce) {i : CtxNum} {c d : Call} (hc : s.contexts[i] = .live c)
    (lane : d.lane = c.lane) : (s.setContext i (.live d)).LanesOwnedOnce :=
  h.kept (State.liveFrom_set hc lane) rfl

/-- An entry of the pending-announcement table replaced. -/
theorem State.setAnnounced_get (s : State) (lane k : Lane) (entry : Option (BitVec 4)) :
    (s.setAnnounced lane entry).adoption.announced[k] = if k = lane then entry else s.adoption.announced[k] := by
  by_cases h : k = lane
  · subst h; simp [State.setAnnounced]
  · have h' : lane.val ≠ k.val := fun e => h (Fin.ext e.symm)
    simp [State.setAnnounced, h, h']

/-- An entry is cleared, or set for a lane without an owner (R144). -/
theorem State.LanesOwnedOnce.setAnnounced (h : s.LanesOwnedOnce) {lane : Lane} {entry : Option (BitVec 4)}
    (free : entry ≠ none → s.owner lane = none) : (s.setAnnounced lane entry).LanesOwnedOnce := by
  obtain ⟨once, unowned, unownedBid⟩ := h
  refine ⟨once, fun k n hn => ?_, unownedBid⟩
  rw [State.setAnnounced_get] at hn
  split at hn
  next e => subst e hn; exact free (by simp)
  next => exact unowned k n hn

theorem State.LanesOwnedOnce.endBid (h : s.LanesOwnedOnce) : s.endBid.LanesOwnedOnce :=
  h.of_liveFrom (.of_contexts rfl) (fun _ _ hn => hn) fun _ hb => nomatch hb

/-- The lane of a bid has no owner, so the context adopted is its only one; and its entry is cleared (R150). -/
theorem State.LanesOwnedOnce.winRound (h : s.LanesOwnedOnce) {b : Bid} (bid : s.adoption.bid = some b) :
    (s.endBid.winRound b).LanesOwnedOnce := by
  obtain ⟨once, unowned, unownedBid⟩ := h
  have others := State.owner_eq_none.mp (unownedBid b bid)
  have ended : s.endBid.LanesOwnedOnce := State.LanesOwnedOnce.endBid ⟨once, unowned, unownedBid⟩
  rcases s.endBid.winRound_cases b with ⟨p, -, e⟩ | ⟨-, e⟩
  · rcases s.endBid.adopt_cases b.lane b.profile p with ⟨i, -, -, e'⟩ | ⟨-, e'⟩
    · rw [e, e']
      have live (j : CtxNum) (d : Call)
          (hd : (s.setContext i (.live (adoptedCall b.lane b.profile p))).contexts[j] = .live d) :
          j = i ∧ d.lane = b.lane ∨ s.contexts[j] = .live d ∧ d.lane ≠ b.lane := by
        rw [State.setContext_get] at hd
        split at hd
        next h => cases hd; exact .inl ⟨h, rfl⟩
        next => exact .inr ⟨hd, others j d hd⟩
      have cleared (k : Lane) (n : BitVec 4) (hn : (s.setAnnounced b.lane none).adoption.announced[k] = some n) :
          k ≠ b.lane ∧ s.adoption.announced[k] = some n := by
        rw [State.setAnnounced_get] at hn
        split at hn
        next => cases hn
        next h => exact ⟨h, hn⟩
      refine ⟨fun j k c d hc hd lane => ?_, fun k n hn => ?_, fun _ hb => nomatch hb⟩
      · rcases live j c hc with ⟨rfl, lanec⟩ | ⟨hc', lanec⟩ <;> rcases live k d hd with ⟨rfl, laned⟩ | ⟨hd', laned⟩
        · rfl
        · exact absurd (lane.symm.trans lanec) laned
        · exact absurd (lane.trans laned) lanec
        · exact once j k c d hc' hd' lane
      · obtain ⟨other, hn'⟩ := cleared k n hn
        refine State.owner_eq_none.mpr fun j d hd => ?_
        rcases live j d hd with ⟨-, laned⟩ | ⟨hd', -⟩
        · rw [laned]; exact other.symm
        · exact State.owner_eq_none.mp (unowned k n hn') j d hd'
    · rw [e, e']
      exact ended.setAnnounced (fun h => absurd rfl h)
  · rw [e]; exact ended

/-! ### A context released (R7, R8) -/

theorem Context.GrantedFrom.live {a b : Context} (h : Context.GrantedFrom a b) {d : Call} (hd : b = .live d) :
    ∃ c, a = .live c ∧ d.lane = c.lane ∧ d.inputQueue = c.inputQueue := by
  rcases h with rfl | ⟨c, delay, pages, hc, -, e⟩
  · exact ⟨d, hd, rfl, rfl⟩
  · rw [hd] at e
    cases e
    exact ⟨c, hc, rfl, rfl⟩

theorem Context.GrantedFrom.free {a b : Context} (h : Context.GrantedFrom a b) (hb : b = .free) : a = .free := by
  rcases h with rfl | ⟨c, delay, pages, -, -, e⟩
  · exact hb
  · rw [hb] at e; cases e

theorem Context.GrantedFrom.releasing {a b : Context} (h : Context.GrantedFrom a b) {d : Call}
    (hb : b = .releasing d) : a = .releasing d := by
  rcases h with rfl | ⟨c, delay, pages, -, -, e⟩
  · exact hb
  · rw [hb] at e; cases e

theorem Context.GrantedFrom.not_live {a b : Context} (h : Context.GrantedFrom a b) (ha : ∀ c, a ≠ .live c) : b = a :=
  h.eq_of_not_waiting fun c hc => absurd hc (ha c)

/-- What a release leaves in the contexts: the one released is RELEASING while the engine works on its entry and FREE
otherwise, and any other may be granted pages. -/
theorem State.releaseContext_get {i : CtxNum} {c : Call} (hc : s.contexts[i] = .live c) (j : CtxNum) :
    if j = i then (s.releaseContext i).contexts[j] = if s.engineOn i then .releasing c.withdraw else .free
    else Context.GrantedFrom s.contexts[j] (s.releaseContext i).contexts[j] := by
  have left : ∃ u : State, s.releaseContext i = u.letGo i ∧ u.engineOn i = s.engineOn i ∧
      u.contexts[i] = .releasing c.withdraw ∧ ∀ k, k ≠ i → Context.GrantedFrom s.contexts[k] u.contexts[k] := by
    have self : (s.leaveLive i).contexts[i] = .releasing c.withdraw := by
      rw [State.leaveLive_get, if_pos rfl, hc]; rfl
    have other (k : CtxNum) (h : k ≠ i) : (s.leaveLive i).contexts[k] = s.contexts[k] := by
      rw [State.leaveLive_get, if_neg h]
    have engine : (s.leaveLive i).engineOn i = s.engineOn i := by simp [State.engineOn]
    by_cases waits : c.far.isWaiting = true
    · have a := (s.leaveLive i).runGrantRule_allocates
      refine ⟨(s.leaveLive i).runGrantRule, by simp [State.releaseContext, hc, waits], ?_, ?_, fun k h => ?_⟩
      · rw [State.engineOn, a.engine]; exact engine
      · rw [(a.contexts i).not_live (by simp [self]), self]
      · rw [← other k h]; exact a.contexts k
    · exact ⟨s.leaveLive i, by simp [State.releaseContext, hc, waits], engine, self, fun k h => .inl (other k h)⟩
  obtain ⟨u, e, engine, self, others⟩ := left
  rw [e]
  have gone (k : CtxNum) := u.becomeFree_contexts i k
  unfold State.letGo
  rw [engine]
  by_cases on : s.engineOn i = true
  · simp only [on, if_true]
    split
    next h => rw [h, self]
    next h => exact others j h
  · simp only [on, if_false, Bool.false_eq_true]
    split
    next h =>
      subst h
      rcases u.becomeFree_cases j with ⟨d, -, e⟩ | ⟨no, -⟩
      · rw [e]
        refine (((State.returnPages_allocates _ _).contexts j).not_live ?_).trans ?_
        · simp
        · simp
      · exact absurd self (no _)
    next h =>
      rcases gone j with g | ⟨rfl, -⟩
      · exact (others j h).trans g
      · exact absurd rfl h

theorem State.releaseContext_fields (s : State) (i : CtxNum) :
    (s.releaseContext i).loader = s.loader ∧ (s.releaseContext i).highway = s.highway ∧
    (s.releaseContext i).engine = s.engine ∧ (s.releaseContext i).pending = s.pending ∧
    (s.releaseContext i).history.cells = s.history.cells := by
  have letGo (u : State) (h : u.loader = s.loader ∧ u.highway = s.highway ∧ u.engine = s.engine ∧
      u.pending = s.pending ∧ u.history.cells = s.history.cells) :
      (u.letGo i).loader = s.loader ∧ (u.letGo i).highway = s.highway ∧ (u.letGo i).engine = s.engine ∧
      (u.letGo i).pending = s.pending ∧ (u.letGo i).history.cells = s.history.cells := by
    obtain ⟨h1, h2, h3, h4, h5⟩ := h
    obtain ⟨g1, g2, g3, g4, g5⟩ := u.letGo_fields i
    exact ⟨g1.trans h1, g2.trans h2, g3.trans h3, g4.trans h4, g5.trans h5⟩
  unfold State.releaseContext
  split
  · refine letGo _ ?_
    split
    · have a := (s.leaveLive i).runGrantRule_allocates
      exact ⟨by simp [a.loader], by simp [a.highway], by simp [a.engine], by simp [a.pending], by simp [a.cells]⟩
    · exact ⟨by simp, by simp, by simp, by simp, by simp⟩
  all_goals exact ⟨rfl, rfl, rfl, rfl, rfl⟩

theorem State.liveFrom_releaseContext {i : CtxNum} {c : Call} (hc : s.contexts[i] = .live c) :
    s.LiveFrom (s.releaseContext i) ∧ ∀ d, (s.releaseContext i).contexts[i] ≠ .live d := by
  have self : ∀ d, (s.releaseContext i).contexts[i] ≠ .live d := by
    have := State.releaseContext_get hc i
    rw [if_pos rfl] at this
    rw [this]
    split <;> simp
  refine ⟨fun j d hd => ?_, self⟩
  have := State.releaseContext_get hc j
  split at this
  next h => subst h; exact absurd hd (self d)
  next => exact (this.live hd).imp fun c h => ⟨h.1, h.2.1⟩

/-- A lane has no owner once its owner is released. -/
theorem State.LanesOwnedOnce.owner_releaseOwner (h : s.LanesOwnedOnce) (lane : Lane) :
    (s.releaseOwner lane).owner lane = none := by
  unfold State.releaseOwner
  split
  next i c owner =>
    obtain ⟨hc, rfl⟩ := State.owner_eq_some owner
    obtain ⟨live, gone⟩ := State.liveFrom_releaseContext hc
    refine State.owner_eq_none.mpr fun j d hd lane => ?_
    obtain ⟨x, hx, lanex⟩ := live j d hd
    obtain rfl := h.1 j i x c hx hc (by rw [← lanex, lane])
    exact gone d hd
  next none => exact none

theorem lanesOwnedOnce_closed : StateClosed State.LanesOwnedOnce where
  changed h hc hd := h.set hc hd.lane
  queued _ _ h hc := h.set hc rfl
  engine _ h := h
  granted h _ _ hc _ := h.set hc rfl
  skipped h _ _ := h
  waitLeft h hc _ hd := h.set hc hd.lane
  pagesReturned h hc _ hd := h.set hc hd.lane
  grantedAtOnce h hc _ _ _ _ hd := h.set hc hd.lane
  waited h hc _ _ hd := h.set hc hd.lane
  redelayed h hc _ _ hd := h.set hc hd.lane
  sampled e ph n h hc := h.set hc (by simp [Progress.complete, (sampleStages_sameOwner ph n e _ _).lane])
  reset h := h.of_liveFrom (fun i d hd => by simp [State.underReset] at hd)
    (fun k n hn => by simp [State.underReset, Adoption.reset] at hn) fun _ hb => nomatch hb
  withdrawn {s i c} h hc := h.kept (fun j d hd => by
    rw [State.leaveLive_get] at hd
    split at hd
    next e => subst e; simp [hc, Context.withdrawn] at hd
    next => exact ⟨d, hd, rfl⟩) (s.leaveLive_adoption i)
  freed h _ := h.of_liveFrom (State.liveFrom_set_of_not_live (by simp)) (fun _ _ hn => hn) fun _ hb => hb
  lost h _ _ := h.of_liveFrom (.of_contexts rfl) (fun k n hn => by simp at hn) fun _ hb => nomatch hb
  won h _ bid := h.winRound bid
  announced lane entry h released _ := released.setAnnounced fun _ => h.owner_releaseOwner lane
  driven _ h _ := h

theorem State.StationMove.lanesOwnedOnce (m : s.StationMove t) (h : s.LanesOwnedOnce) : t.LanesOwnedOnce := by
  have ended (p q) : (s.endLoad p q).LanesOwnedOnce := by
    obtain ⟨contexts, -, -, adoption, -⟩ := s.endLoad_frame p q
    exact h.kept (.of_contexts contexts) adoption
  cases m with
  | loadFailed => exact ended ..
  | loaded => exact ended ..
  | bidMade lane =>
    obtain ⟨once, unowned, -⟩ := h
    refine ⟨once, unowned, fun b hb => ?_⟩
    obtain ⟨rfl, n, -, entry, -⟩ := State.bidFor_eq_some hb
    exact unowned b.lane n entry
  | entryCleared lane => exact h.setAnnounced fun e => absurd rfl e
  | bidEndedEntryCleared lane => exact h.endBid.setAnnounced fun e => absurd rfl e
  | markCounted | markSynced | markFollowed | markMissed | bidEnded =>
    exact h.of_liveFrom (.of_contexts rfl) (fun _ _ hn => hn) fun _ hb => nomatch hb
  | _ => exact h

/-- Settles O55: only a won round makes a context LIVE, on a lane without an owner; an entry is set after the owner of its
lane is released; and a bid is made for an announced lane. -/
theorem lanesStayOwnedOnce : Obligations.LanesStayOwnedOnce := fun _ _ h =>
  lanesOwnedOnce_closed.step (fun _ => h) fun _ m => m.lanesOwnedOnce h

end Lanes

/-! ### The engine (R8, R21, R22) -/

/-- No context is RELEASING. -/
def State.NoneReleasing (s : State) : Prop := ∀ (i : CtxNum) (c : Call), s.contexts[i] ≠ .releasing c

section Engine

variable {s t : State}

theorem State.NoneReleasing.set (h : s.NoneReleasing) (i : CtxNum) (d : Call) :
    (s.setContext i (.live d)).NoneReleasing := fun j c => by
  rw [State.setContext_get]
  split
  · simp
  · exact h j c

/-- An outcome neither releases a context nor gives the engine a job. -/
theorem noneReleasing_closed : OutcomeClosed fun s => s.NoneReleasing ∧ s.engine.job = none where
  changed h _ _ := ⟨h.1.set _ _, h.2⟩
  granted h _ _ _ _ := ⟨h.1.set _ _, h.2⟩
  skipped h _ _ := h
  waitLeft h _ _ _ := ⟨h.1.set _ _, h.2⟩
  pagesReturned h _ _ _ := ⟨h.1.set _ _, h.2⟩
  grantedAtOnce h _ _ _ _ _ _ := ⟨h.1.set _ _, h.2⟩
  waited h _ _ _ _ := ⟨h.1.set _ _, h.2⟩
  redelayed h _ _ _ _ := ⟨h.1.set _ _, h.2⟩
  sampled _ _ _ h _ := ⟨h.1.set _ _, h.2⟩

/-- The engine's choice makes the law hold again where the job is gone and nothing is RELEASING. -/
theorem State.NoneReleasing.takeNext (h : s.NoneReleasing) (idle : s.engine.job = none) :
    s.takeNext.EngineConsistent := by
  rcases s.takeNext_cases with ⟨job, -⟩ | ⟨-, noCandidate, e⟩ | ⟨-, i, c, x, rest, -, -, -, e⟩
  · simp [idle] at job
  · rw [e]
    exact ⟨fun j hj => by simp [idle] at hj, fun i c hc => absurd hc (h i c), fun _ => noCandidate⟩
  · rw [e]
    refine ⟨fun j hj => ?_, fun j d hd => ?_, fun hj => nomatch hj⟩
    · cases hj
      simp
    · rw [State.withEngine_contexts] at hd
      exact absurd hd (h.set i _ j d)

/-- Where no lane has two owners, a LIVE context with an entry waiting is a candidate. -/
theorem State.LanesOwnedOnce.queues_empty (lanes : s.LanesOwnedOnce) (noCandidate : ∀ k : Lane, s.candidate k = none)
    (i : CtxNum) (c : Call) (hc : s.contexts[i] = .live c) : c.inputQueue = [] := by
  have owner := State.owner_of_live hc fun j d hd lane => lanes.1 j i d c hd hc lane
  have := noCandidate c.lane
  unfold State.candidate at this
  rw [owner] at this
  cases queue : c.inputQueue with
  | nil => rfl
  | cons e rest => simp [queue] at this

theorem State.candidate_eq_none (empty : ∀ (i : CtxNum) (c : Call), s.contexts[i] = .live c → c.inputQueue = [])
    (k : Lane) : s.candidate k = none := by
  cases e : s.candidate k with
  | none => rfl
  | some x =>
    obtain ⟨c, rest, owner, queue, -⟩ := State.candidate_eq_some (i := x.1) (d := x.2.1) (e := x.2.2) e
    rw [empty _ c (State.owner_eq_some owner).1] at queue
    cases queue

/-- The engine is left, none of its contexts becomes FREE, every RELEASING one is its own, and no queue is filled: the law
is kept. -/
theorem State.EngineConsistent.kept (h : s.EngineConsistent) (lanes : s.LanesOwnedOnce) (engine : t.engine = s.engine)
    (free : ∀ i : CtxNum, t.contexts[i] = .free → s.contexts[i] = .free ∨ s.engineOn i = false)
    (releasing : ∀ (i : CtxNum) (c : Call), t.contexts[i] = .releasing c → s.engineOn i = true)
    (live : ∀ (i : CtxNum) (d : Call), t.contexts[i] = .live d →
      (∃ c, s.contexts[i] = .live c ∧ d.inputQueue = c.inputQueue) ∨ d.inputQueue = []) : t.EngineConsistent := by
  obtain ⟨named, held, idle⟩ := h
  refine ⟨fun j hj e => ?_, fun i c hc => ?_, fun none => State.candidate_eq_none fun i d hd => ?_⟩
  · rw [engine] at hj
    rcases free j.context e with e | off
    · exact named j hj e
    · simp [State.engineOn, hj] at off
  · rw [State.engineOn, engine]
    exact releasing i c hc
  · rw [engine] at none
    rcases live i d hd with ⟨c, hc, queue⟩ | queue
    · rw [queue]; exact lanes.queues_empty (idle none) i c hc
    · exact queue

theorem State.EngineConsistent.same (h : s.EngineConsistent) (lanes : s.LanesOwnedOnce) (engine : t.engine = s.engine)
    (contexts : t.contexts = s.contexts) : t.EngineConsistent :=
  h.kept lanes engine (fun _ hi => .inl (contexts ▸ hi)) (fun i c hc => h.2.1 i c (contexts ▸ hc))
    fun _ d hd => .inl ⟨d, contexts ▸ hd, rfl⟩

/-- A LIVE context changed but for its queue. -/
theorem State.EngineConsistent.set (h : s.EngineConsistent) (lanes : s.LanesOwnedOnce) {i : CtxNum} {c d : Call}
    (hc : s.contexts[i] = .live c) (queue : d.inputQueue = c.inputQueue) :
    (s.setContext i (.live d)).EngineConsistent := by
  refine h.kept lanes rfl (fun j hj => ?free) (fun j x hx => ?releasing) fun j x hx => ?live
  case free =>
    rw [State.setContext_get] at hj
    split at hj
    · cases hj
    · exact .inl hj
  case releasing =>
    rw [State.setContext_get] at hx
    split at hx
    · cases hx
    · exact h.2.1 j x hx
  case live =>
    rw [State.setContext_get] at hx
    split at hx
    next e => cases hx; exact .inl ⟨c, e ▸ hc, queue⟩
    next => exact .inl ⟨x, hx, rfl⟩

/-- Only the context that the engine works on may be RELEASING. -/
theorem State.EngineConsistent.releasing_eq (h : s.EngineConsistent) {j : Job} (job : s.engine.job = some j)
    {i : CtxNum} {c : Call} (hc : s.contexts[i] = .releasing c) : i = j.context := by
  have := h.2.1 i c hc
  rw [State.engineOn, job] at this
  exact (beq_iff_eq.mp this).symm

theorem State.EngineConsistent.noneReleasing (h : s.EngineConsistent) {j : Job} (job : s.engine.job = some j)
    (not : ∀ c, s.contexts[j.context] ≠ .releasing c) : s.NoneReleasing := fun i c hc => by
  obtain rfl := h.releasing_eq job hc
  exact not c hc

theorem State.EngineConsistent.releaseOwner (h : s.EngineConsistent) (lanes : s.LanesOwnedOnce) (lane : Lane) :
    (s.releaseOwner lane).EngineConsistent := by
  unfold State.releaseOwner
  split
  next i c owner =>
    obtain ⟨hc, -⟩ := State.owner_eq_some owner
    have get := State.releaseContext_get hc
    refine h.kept lanes (s.releaseContext_fields i).2.2.1 (fun j hj => ?free) (fun j x hx => ?releasing)
      fun j x hx => ?live
    case free =>
      have g := get j
      split at g
      next e =>
        subst e
        cases on : s.engineOn j with
        | false => exact .inr rfl
        | true => rw [hj, on] at g; cases g
      next => exact .inl (g.free hj)
    case releasing =>
      have g := get j
      split at g
      next e =>
        subst e
        cases on : s.engineOn j with
        | false => rw [hx, on] at g; cases g
        | true => rfl
      next => exact h.2.1 j x (g.releasing hx)
    case live =>
      have g := get j
      split at g
      next e => subst e; rw [hx] at g; split at g <;> cases g
      next => exact .inl ((g.live hx).imp fun _ y => ⟨y.1, y.2.2⟩)
  next => exact h

theorem State.EngineConsistent.winRound (h : s.EngineConsistent) (lanes : s.LanesOwnedOnce) (b : Bid) :
    (s.endBid.winRound b).EngineConsistent := by
  have ended : s.endBid.EngineConsistent := h.same lanes rfl rfl
  rcases s.endBid.winRound_cases b with ⟨p, -, e⟩ | ⟨-, e⟩
  · rcases s.endBid.adopt_cases b.lane b.profile p with ⟨i, -, free, e'⟩ | ⟨-, e'⟩
    · rw [e, e']
      have get (j : CtxNum) := s.setContext_get i j (.live (adoptedCall b.lane b.profile p))
      refine h.kept lanes rfl (fun j hj => ?free) (fun j x hx => ?releasing) fun j x hx => ?live
      case free =>
        have hj := (get j).symm.trans hj
        split at hj
        · cases hj
        · exact .inl hj
      case releasing =>
        have hx := (get j).symm.trans hx
        split at hx
        · cases hx
        · exact h.2.1 j x hx
      case live =>
        have hx := (get j).symm.trans hx
        split at hx
        · cases hx; exact .inr rfl
        · exact .inl ⟨x, hx, rfl⟩
    · rw [e, e']; exact h.same lanes rfl rfl
  · rw [e]; exact ended

theorem State.EngineConsistent.arrive (h : s.EngineConsistent) (lanes : s.LanesOwnedOnce) {i : CtxNum} {c : Call}
    (hc : s.contexts[i] = .live c) (e : Entry) : (s.arrive i c e).EngineConsistent := by
  unfold State.arrive
  split
  next =>
    cases job : s.engine.job with
    | none =>
      have none : s.NoneReleasing := fun k x hx => by simpa [State.engineOn, job] using h.2.1 k x hx
      exact (none.set i _).takeNext job
    | some j =>
      have busy : (s.setContext i (.live (c.enqueue e))).takeNext = s.setContext i (.live (c.enqueue e)) := by
        simp [State.takeNext, job]
      rw [busy]
      obtain ⟨named, held, -⟩ := h
      refine ⟨fun k hk => ?named, fun k x hx => ?held, fun idle => ?idle⟩
      case named =>
        rw [State.setContext_get]
        split
        · simp
        · exact named k hk
      case held =>
        rw [State.setContext_get] at hx
        split at hx
        · cases hx
        · exact held k x hx
      case idle => simp [job] at idle
  next => exact h.set lanes hc (by simp)

/-- Highway loss leaves the contexts of the engine RELEASING and every other one FREE. -/
theorem State.EngineConsistent.loseHighway (h : s.EngineConsistent) (lanes : s.LanesOwnedOnce) :
    s.loseHighway.EngineConsistent := by
  have contexts (i : CtxNum) : s.loseHighway.contexts[i] = if s.engineOn i then s.contexts[i].withdrawn else .free := by
    simp only [State.loseHighway_eq, State.withLoader_contexts, State.withHighway_contexts, State.withAdoption_contexts,
      State.released_get]
  have engine : s.loseHighway.engine = s.engine := by
    obtain ⟨-, -, engine, -⟩ := s.released_fields
    simpa only [State.loseHighway_eq, State.withLoader_engine, State.withHighway_engine, State.withAdoption_engine]
      using engine
  refine h.kept lanes engine (fun i hi => ?free) (fun i c hc => ?releasing) fun i d hd => ?live
  case free =>
    cases on : s.engineOn i with
    | false => exact .inr rfl
    | true =>
      rw [contexts, on] at hi
      cases hs : s.contexts[i] <;> simp_all [Context.withdrawn]
  case releasing =>
    cases on : s.engineOn i with
    | false => rw [contexts, on] at hc; cases hc
    | true => rfl
  case live =>
    rw [contexts] at hd
    split at hd
    · cases hs : s.contexts[i] <;> simp_all [Context.withdrawn]
    · cases hd

theorem State.ContextMove.engineConsistent (m : s.ContextMove t) (lanes : s.LanesOwnedOnce) (h : s.EngineConsistent) :
    t.EngineConsistent := by
  cases m with
  | reset =>
    have free (i : CtxNum) : s.underReset.contexts[i] = .free := by simp [State.underReset]
    exact ⟨fun _ hj => (nomatch hj), fun i c hc => by simp [free] at hc,
      fun _ => State.candidate_eq_none fun i c hc => by simp [free] at hc⟩
  | lost => exact h.loseHighway lanes
  | won b => exact h.winRound lanes b
  | arrived lane i c e _ owner => exact h.arrive lanes (State.owner_eq_some owner).1 e
  | released lane entry =>
    exact (h.releaseOwner lanes lane).same (lanesOwnedOnce_closed.releaseOwner lanes lane) rfl rfl
  | written lane i c half _ owner =>
    have hc := (State.owner_eq_some owner).1
    have stands := c.upstreamChoice_sameStanding
    exact (h.set lanes hc stands.inputQueue).same (lanes.set hc stands.lane) rfl rfl
  | discarded j c job releasing =>
    refine State.NoneReleasing.takeNext (fun i d hd => ?_) (by simp)
    rcases s.endJob.becomeFree_contexts j.context i with g | ⟨-, -, free⟩
    · obtain rfl := h.releasing_eq job (g.releasing hd)
      rcases s.endJob.becomeFree_cases j.context with ⟨x, -, e⟩ | ⟨no, -⟩
      · rw [e, ((State.returnPages_allocates _ _).contexts j.context).not_live (by simp)] at hd
        simp at hd
      · exact no c releasing
    · rw [free] at hd; cases hd
  | vanished j job free => exact State.NoneReleasing.takeNext (h.noneReleasing job (by simp [free])) rfl
  | completed j c u job live outcome =>
    have none : s.endJob.NoneReleasing := h.noneReleasing job (by simp [live])
    obtain ⟨noneReleasing, idle⟩ := noneReleasing_closed.outcome ⟨none, rfl⟩ live outcome
    exact noneReleasing.takeNext idle

/-- Settles O56: when an entry completes nothing is RELEASING any more, and the engine's choice leaves an idle engine
without a candidate; a context that the engine works on is never let go of. -/
theorem engineStaysConsistent : Obligations.EngineStaysConsistent := by
  intro s t lanes h e
  obtain ⟨q, m | m⟩ := step_moves e
  · obtain ⟨contexts, engine, -⟩ := m.frame
    exact h.same lanes engine contexts
  · exact m.engineConsistent lanes h

end Engine

end Sys2Proof.Machine
end

section
/-! The wait list and the far sections: what every step keeps (R60 to R64). -/

namespace Sys2Proof.Machine

/-! ### The wait list (R60) -/

section WaitList

variable {s t : State}

/-- One context replaced, with a wait list that differs at most in the place of that context. -/
theorem State.WaitListExact.replace (h : s.WaitListExact) {i : CtxNum} {x : Context} {w : List (CtxNum × Nat)}
    (nodup : (w.map Prod.fst).Nodup)
    (others : ∀ k, k ≠ i → (k ∈ w.map Prod.fst ↔ k ∈ s.history.waitList.map Prod.fst))
    (self : i ∈ w.map Prod.fst ↔ ∃ c, x = .live c ∧ c.far.isWaiting = true)
    (releasing : ∀ c, x = .releasing c → c.far.isWaiting = false) :
    ((s.setContext i x).withWaitList w).WaitListExact := by
  obtain ⟨-, exact, notWaiting⟩ := h
  refine ⟨nodup, fun k => ?_, fun k c hc => ?_⟩
  · rw [State.withWaitList_contexts, State.setContext_get, State.withWaitList_history_waitList]
    by_cases e : k = i
    · subst e; simpa using self
    · rw [others k e, exact k, if_neg e]
  · rw [State.withWaitList_contexts, State.setContext_get] at hc
    split at hc
    · exact releasing c hc
    · exact notWaiting k c hc

theorem State.WaitListExact.mem_iff (h : s.WaitListExact) {i : CtxNum} {c : Call} (hc : s.contexts[i] = .live c) :
    i ∈ s.history.waitList.map Prod.fst ↔ c.far.isWaiting = true := by
  simp [h.2.1 i, hc]

theorem State.WaitListExact.not_mem (h : s.WaitListExact) {i : CtxNum} (hc : ∀ c, s.contexts[i] ≠ .live c) :
    i ∉ s.history.waitList.map Prod.fst := fun m => by
  obtain ⟨c, live, -⟩ := (h.2.1 i).mp m
  exact hc c live

/-- A LIVE context replaced by one that waits exactly if it did. -/
theorem State.WaitListExact.set (h : s.WaitListExact) {i : CtxNum} {c d : Call} (hc : s.contexts[i] = .live c)
    (waiting : d.far.isWaiting = c.far.isWaiting) : (s.setContext i (.live d)).WaitListExact :=
  h.replace h.1 (fun _ _ => Iff.rfl) (by simp [h.mem_iff hc, waiting]) (by simp)

theorem mem_map_fst_filter_ne {w : List (CtxNum × Nat)} {i k : CtxNum} :
    k ∈ (w.filter fun e => e.1 != i).map Prod.fst ↔ k ≠ i ∧ k ∈ w.map Prod.fst := by
  simp only [List.mem_map, List.mem_filter, bne_iff_ne]
  constructor
  · rintro ⟨e, ⟨he, ne⟩, rfl⟩; exact ⟨ne, e, he, rfl⟩
  · rintro ⟨ne, e, he, rfl⟩; exact ⟨e, ⟨he, ne⟩, rfl⟩

/-- A context leaves the wait list and waits no more (R60). -/
theorem State.WaitListExact.leave (h : s.WaitListExact) (i : CtxNum) {x : Context}
    (waiting : ∀ c, x.call? = some c → c.far.isWaiting = false) :
    ((s.setContext i x).leaveWaitList i).WaitListExact := by
  refine h.replace (h.1.sublist (List.filter_sublist.map _)) (fun k ne => ?_) ?_ fun c hc => waiting c (by rw [hc]; rfl)
  · rw [State.setContext_history, mem_map_fst_filter_ne]
    simp [ne]
  · rw [State.setContext_history, mem_map_fst_filter_ne]
    simp only [ne_eq, not_true_eq_false, false_and, false_iff, not_exists, not_and]
    intro c hc
    simp [waiting c (by rw [hc]; rfl)]

@[simp] theorem FarSection.isWaiting_redelayed (r : Ring) (delay nf : Nat) :
    (r.redelayed delay nf).isWaiting = false := by
  unfold Ring.redelayed
  split <;> rfl

theorem FarSection.not_waiting_of_held {far : FarSection} {r : Ring} (h : far = .filling r ∨ far = .active r) :
    far.isWaiting = false := by
  rcases h with rfl | rfl <;> rfl

theorem FarSection.isWaiting_withdraw (c : Call) : c.withdraw.far.isWaiting = false := by
  unfold Call.withdraw
  cases c.far <;> rfl

theorem FarSection.isWaiting_adopted (lane : Lane) (n : Fin 16) (p : Profile) :
    (adoptedCall lane n p).far.isWaiting = false := by
  unfold adoptedCall
  dsimp only
  split <;> rfl

theorem State.WaitListExact.granted (h : s.WaitListExact) {i : CtxNum} {need : Nat} {rest : List (CtxNum × Nat)}
    (head : s.history.waitList = (i, need) :: rest) {d : Call} (waiting : d.far.isWaiting = false) :
    ((s.setContext i (.live d)).withWaitList rest).WaitListExact := by
  have nodup := h.1
  rw [head, List.map_cons, List.nodup_cons] at nodup
  obtain ⟨once, nodup⟩ := nodup
  refine h.replace nodup (fun k ne => ?_) (by simp [waiting, once]) (by simp)
  rw [head, List.map_cons, List.mem_cons]
  exact ⟨.inr, fun m => m.resolve_left ne⟩

/-- The head of the wait list is a WAITING context: the rule skips none. -/
theorem State.WaitListExact.head_waits (h : s.WaitListExact) {i : CtxNum} {need : Nat} {rest : List (CtxNum × Nat)}
    (head : s.history.waitList = (i, need) :: rest) :
    ∃ c delay, s.contexts[i] = .live c ∧ c.far = .waiting delay := by
  obtain ⟨c, hc, waiting⟩ := (h.2.1 i).mp (by simp [head])
  cases far : c.far <;> simp [far, FarSection.isWaiting] at waiting
  exact ⟨c, _, hc, far⟩

theorem State.WaitListExact.waited (h : s.WaitListExact) {i : CtxNum} {c d : Call} (hc : s.contexts[i] = .live c)
    (unset : c.far.isWaiting = false) (waiting : d.far.isWaiting = true) (need : Nat) :
    ((s.setContext i (.live d)).withWaitList (s.history.waitList ++ [(i, need)])).WaitListExact := by
  have absent : i ∉ s.history.waitList.map Prod.fst := by simp [h.mem_iff hc, unset]
  refine h.replace ?_ (fun k ne => ?_) (by simp [waiting]) (by simp)
  · rw [List.map_append, List.map_singleton, List.nodup_append]
    exact ⟨h.1, List.nodup_singleton _, fun a ha b hb => by rintro rfl; rw [List.mem_singleton.mp hb] at ha; exact absent ha⟩
  · simp [ne]

/-- A context that is not LIVE replaced by one that does not wait. -/
theorem State.WaitListExact.set_of_not_live (h : s.WaitListExact) {i : CtxNum} (hc : ∀ c, s.contexts[i] ≠ .live c)
    {x : Context} (waiting : ∀ c, x.call? = some c → c.far.isWaiting = false) : (s.setContext i x).WaitListExact := by
  refine h.replace h.1 (fun _ _ => Iff.rfl) ?_ fun c e => waiting c (by rw [e]; rfl)
  simp only [h.not_mem hc, false_iff, not_exists, not_and]
  intro c e
  simp [waiting c (by rw [e]; rfl)]

theorem waitListExact_closed : StateClosed State.WaitListExact where
  changed h hc hd := h.set hc (by rw [hd.far])
  queued _ _ h hc := h.set hc rfl
  engine _ h := h
  granted h head _ _ _ := h.granted head rfl
  skipped {s i need rest} h head no := by
    obtain ⟨c, delay, hc, hd⟩ := h.head_waits head
    exact absurd hd (no c delay hc)
  waitLeft h _ _ hd := h.leave _ fun c e => by cases e; rw [hd.far]; rfl
  pagesReturned h hc holds hd := h.set hc (by rw [hd.far, FarSection.not_waiting_of_held holds]; rfl)
  grantedAtOnce h hc unset _ _ _ hd := h.set hc (by rw [hd.far, unset]; rfl)
  waited h hc unset _ hd := h.waited hc (by rw [unset]; rfl) (by rw [hd.far]; rfl) _
  redelayed h hc holds _ hd := h.set hc (by rw [hd.far, FarSection.not_waiting_of_held holds]; simp)
  sampled e ph n h hc := h.set hc (by simp [Progress.complete, (sampleStages_far ph n e _ _).2.1])
  reset _ := ⟨List.nodup_nil, fun i => by simp [State.underReset, History.reset], fun i c hc => by
    simp [State.underReset] at hc⟩
  withdrawn {s i c} h hc := by
    rw [State.leaveLive_of_live hc]
    exact h.leave i fun d e => by cases e; exact FarSection.isWaiting_withdraw c
  freed {s i c} h hc := h.set_of_not_live (i := i) (x := .free) (by simp [hc]) (fun _ e => nomatch e)
  lost h _ _ := h
  won {s b} h _ _ := by
    rcases s.endBid.winRound_cases b with ⟨p, -, e⟩ | ⟨-, e⟩
    · rcases s.endBid.adopt_cases b.lane b.profile p with ⟨i, -, free, e'⟩ | ⟨-, e'⟩
      · rw [e, e']
        exact h.set_of_not_live (i := i) (x := .live _) (fun c hc => by
          rw [State.endBid_contexts] at free; simp [free] at hc)
          fun c hc => by cases hc; exact FarSection.isWaiting_adopted ..
      · rw [e, e']; exact h
    · rw [e]; exact h
  announced _ _ _ h _ := h
  driven _ h _ := h

end WaitList

/-! ### Far sections (R63, R64) -/

/-- What a far section holds in each far state, for a profile with `nf` far taps (R63, R64). -/
def FarSection.Sound (nf : Nat) : FarSection → Prop
  | .absent => nf = 0
  | .unset => 1 ≤ nf
  | .waiting d => 1 ≤ nf ∧ d + nf ≤ 4096
  | .filling r => 1 ≤ nf ∧ r.pages.length ≤ 64 ∧ r.delay + nf ≤ r.length ∧ r.writeIndex < r.length ∧
      r.fill < r.delay + nf
  | .active r => 1 ≤ nf ∧ r.pages.length ≤ 64 ∧ r.delay + nf ≤ r.fill ∧ r.writeIndex < r.length ∧ r.fill ≤ r.length

theorem Call.farSound_iff (c : Call) : c.FarSound ↔ c.far.Sound c.settings.nf := by
  unfold Call.FarSound FarSection.Sound
  cases c.far <;> rfl

/-- Every far section but an absent one belongs to a profile with far taps. -/
theorem FarSection.Sound.one_le {nf : Nat} {far : FarSection} (h : far.Sound nf) (present : far ≠ .absent) : 1 ≤ nf := by
  cases far with
  | absent => exact absurd rfl present
  | unset => exact h
  | _ => exact h.1

theorem FarSection.Sound.ring {nf : Nat} {far : FarSection} {r : Ring} (h : far.Sound nf)
    (holds : far = .filling r ∨ far = .active r) :
    1 ≤ nf ∧ r.pages.length ≤ 64 ∧ r.writeIndex < r.length ∧ r.fill ≤ r.length := by
  rcases holds with rfl | rfl
  · obtain ⟨one, pages, covers, index, fill⟩ := h; exact ⟨one, pages, index, by omega⟩
  · obtain ⟨one, pages, -, index, fill⟩ := h; exact ⟨one, pages, index, fill⟩

/-- A need of pages covers the symbols it is for (R65). -/
theorem le_length_of_pageNeed {r : Ring} {delay nf : Nat} (h : pageNeed delay nf ≤ r.pages.length) :
    delay + nf ≤ r.length := by
  unfold pageNeed at h
  simp only [Ring.length, Config.pageSize]
  omega

theorem FarSection.sound_granted {delay nf : Nat} {pages : List Page} (one : 1 ≤ nf) (covers : delay + nf ≤ 4096)
    (held : pages.length = pageNeed delay nf) : (FarSection.filling (.granted delay pages)).Sound nf := by
  have length := le_length_of_pageNeed (r := .granted delay pages) held.ge
  have bound : pageNeed delay nf ≤ 64 := by unfold pageNeed; omega
  refine ⟨one, held.trans_le bound, length, ?_, ?_⟩ <;> simp only [Ring.granted] at * <;> omega

theorem FarSection.sound_redelayed {delay nf : Nat} {r : Ring} {far : FarSection} (h : far.Sound nf)
    (holds : far = .filling r ∨ far = .active r) (enough : pageNeed delay nf ≤ r.pages.length) :
    (r.redelayed delay nf).Sound nf := by
  obtain ⟨one, pages, index, fill⟩ := h.ring holds
  have length := le_length_of_pageNeed enough
  unfold Ring.redelayed
  split
  next covered => exact ⟨one, pages, covered, index, fill⟩
  next short => exact ⟨one, pages, length, index, not_le.mp short⟩

theorem Ring.advance_bounds {r : Ring} (index : r.writeIndex < r.length) (fill : r.fill ≤ r.length) :
    r.advance.writeIndex < r.length ∧ r.advance.fill ≤ r.length ∧ r.fill ≤ r.advance.fill := by
  simp only [Ring.advance]
  refine ⟨?_, ?_, ?_⟩ <;> split <;> omega

/-- A ring write keeps the far section sound; a FILLING one becomes ACTIVE when the fill count covers D + Nf (R72). -/
theorem Progress.writeRing_sound {p : Progress} (h : p.call.far.Sound p.call.settings.nf) (x : Sample) :
    (p.writeRing x).call.far.Sound p.call.settings.nf := by
  unfold Progress.writeRing
  split
  next r far =>
    rw [far] at h
    obtain ⟨one, pages, covers, index, fill⟩ := h
    obtain ⟨index, full, -⟩ := Ring.advance_bounds index (by omega)
    split
    next covered => exact ⟨one, pages, covered, index, full⟩
    next short => exact ⟨one, pages, covers, index, not_le.mp short⟩
  next r far =>
    rw [far] at h
    obtain ⟨one, pages, covers, index, fill⟩ := h
    obtain ⟨index, full, rises⟩ := Ring.advance_bounds index fill
    exact ⟨one, pages, covers.trans rises, index, full⟩
  all_goals exact h

theorem Progress.writeRing_settings (p : Progress) (x : Sample) : (p.writeRing x).call.settings = p.call.settings := by
  rw [Progress.writeRing_eq]; rfl

theorem Progress.writeZeros_sound (n : Nat) {p : Progress} (h : p.call.far.Sound p.call.settings.nf) :
    (Progress.writeZeros n p).call.far.Sound p.call.settings.nf := by
  induction n generalizing p with
  | zero => exact h
  | succ n ih =>
    rw [← p.writeRing_settings Cplx.zero]
    exact ih (by rw [Progress.writeRing_settings]; exact Progress.writeRing_sound h _)

theorem sampleStages_farSound (ph : Phase) (n : Nat) (e : SampleEntry) {c : Call} (cells : List (Nat × Sample))
    (h : c.far.Sound c.settings.nf) : (sampleStages ph n e c cells).call.far.Sound c.settings.nf := by
  have gap : (Progress.gapFill { call := c, cells := cells, latched := [] } e.gap).call.far.Sound c.settings.nf := by
    unfold Progress.gapFill
    split
    · exact h
    · exact Progress.writeZeros_sound _ (p := { call := c, cells := cells, latched := [] }) h
  have settings : (Progress.gapFill { call := c, cells := cells, latched := [] } e.gap).call.settings = c.settings := by
    rw [Progress.gapFill_eq]
  rw [sampleStages, (laterStages_far ph n e _).2, historyStages, Progress.historyWrite_eq]
  rw [← settings] at gap ⊢
  exact Progress.writeRing_sound gap _

/-! ### Far sections without a ring (R72) -/

/-- The far state is one that holds no pages: ABSENT, UNSET or WAITING. -/
def FarSection.Ringless (far : FarSection) : Prop := (∀ r, far ≠ .filling r) ∧ ∀ r, far ≠ .active r

theorem Progress.writeRing_of_ringless {p : Progress} (h : p.call.far.Ringless) (x : Sample) : p.writeRing x = p := by
  obtain ⟨notFilling, notActive⟩ := h
  unfold Progress.writeRing
  split
  next r far => exact absurd far (notFilling r)
  next r far => exact absurd far (notActive r)
  all_goals rfl

theorem Progress.writeZeros_of_ringless {p : Progress} (h : p.call.far.Ringless) (n : Nat) :
    Progress.writeZeros n p = p := by
  induction n with
  | zero => rfl
  | succ n ih => rw [Progress.writeZeros, Progress.writeRing_of_ringless h, ih]

theorem Progress.gapFill_of_ringless {p : Progress} (h : p.call.far.Ringless) (g : BitVec 4) :
    (p.gapFill g).call.far = p.call.far ∧ (p.gapFill g).cells = p.cells := by
  unfold Progress.gapFill
  split
  · exact ⟨rfl, rfl⟩
  · dsimp only
    rw [Progress.writeZeros_of_ringless h]
    exact ⟨rfl, rfl⟩

/-- Without a ring the history stages leave the far section and history memory (R72). -/
theorem historyStages_of_ringless {c : Call} (h : c.far.Ringless) (e : SampleEntry) (cells : List (Nat × Sample)) :
    (historyStages e c cells).call.far = c.far ∧ (historyStages e c cells).cells = cells := by
  obtain ⟨far, kept⟩ := Progress.gapFill_of_ringless (p := { call := c, cells := cells, latched := [] }) h e.gap
  rw [historyStages, Progress.historyWrite_eq, Progress.writeRing_of_ringless (by rw [far]; exact h)]
  exact ⟨far, kept⟩

theorem sampleStages_of_ringless {c : Call} (h : c.far.Ringless) (ph : Phase) (n : Nat) (e : SampleEntry)
    (cells : List (Nat × Sample)) :
    (sampleStages ph n e c cells).call.far = c.far ∧ (sampleStages ph n e c cells).cells = cells := by
  obtain ⟨cells', far⟩ := laterStages_far ph n e (historyStages e c cells)
  rw [sampleStages, cells', far]
  exact historyStages_of_ringless h e cells

section Far

variable {s t : State}

/-- The wait list is exact and the far sections are sound: the law that the steps keep together. -/
def State.FarLaw (s : State) : Prop := s.WaitListExact ∧ s.FarSound

theorem State.FarLaw.call (h : s.FarLaw) {i : CtxNum} {c : Call} (hc : s.contexts[i] = .live c) :
    c.far.Sound c.settings.nf :=
  c.farSound_iff.mp (h.2.1 i c (by rw [hc]; rfl))

/-- One context replaced by one with a sound far section, under a wait list whose other entries are old ones. -/
theorem State.FarSound.replace (h : s.FarSound) {i : CtxNum} {x : Context} {w : List (CtxNum × Nat)}
    (sound : ∀ d, x.call? = some d → d.far.Sound d.settings.nf)
    (others : ∀ k need, k ≠ i → (k, need) ∈ w → (k, need) ∈ s.history.waitList)
    (self : ∀ need, (i, need) ∈ w → ∃ c d, x = .live c ∧ c.far = .waiting d ∧ need = (d + c.settings.nf + 63) / 64) :
    ((s.setContext i x).withWaitList w).FarSound := by
  obtain ⟨calls, entries⟩ := h
  refine ⟨fun k d hd => ?_, fun k need hk => ?_⟩
  · rw [State.withWaitList_contexts, State.setContext_get] at hd
    split at hd
    · exact d.farSound_iff.mpr (sound d hd)
    · exact calls k d hd
  · rw [State.withWaitList_contexts, State.setContext_get]
    split
    next e => exact self need (e ▸ hk)
    next ne => exact entries k need (others k need ne hk)

/-- A LIVE context replaced by one with a sound far section that does not wait, and has no entry. -/
theorem State.FarSound.set_of_absent (h : s.FarSound) {i : CtxNum} {x : Context} {w : List (CtxNum × Nat)}
    (sound : ∀ d, x.call? = some d → d.far.Sound d.settings.nf)
    (subset : ∀ e ∈ w, e ∈ s.history.waitList) (absent : i ∉ w.map Prod.fst) :
    ((s.setContext i x).withWaitList w).FarSound :=
  h.replace sound (fun _ _ _ m => subset _ m) fun _ m => absurd (List.mem_map_of_mem m) absent

/-- A LIVE context that does not wait replaced by one that does not either. -/
theorem State.FarLaw.set (h : s.FarLaw) {i : CtxNum} {c d : Call} (hc : s.contexts[i] = .live c)
    (before : c.far.isWaiting = false) (sound : d.far.Sound d.settings.nf) : (s.setContext i (.live d)).FarSound :=
  h.2.set_of_absent (fun x e => by cases e; exact sound) (fun _ m => m) (by simp [h.1.mem_iff hc, before])

/-- A LIVE context that keeps its far section. -/
theorem State.FarLaw.keep (h : s.FarLaw) {i : CtxNum} {c d : Call} (hc : s.contexts[i] = .live c)
    (far : d.far = c.far) (settings : d.settings = c.settings) : (s.setContext i (.live d)).FarSound := by
  refine h.2.replace (w := s.history.waitList) (fun x e => ?_) (fun _ _ _ m => m) fun need m => ?_
  · cases e
    rw [far, settings]
    exact h.call hc
  · obtain ⟨x, delay, hx, waiting, e⟩ := h.2.2 i need m
    obtain rfl : c = x := by simpa [hc] using hx
    exact ⟨d, delay, rfl, by rw [far, waiting], by rw [settings, e]⟩

/-- The head of the wait list granted: its need is that of its delay (R61). -/
theorem State.FarLaw.granted (h : s.FarLaw) {i : CtxNum} {need : Nat} {rest : List (CtxNum × Nat)} {c : Call}
    {delay : Nat} {pages : List Page} (head : s.history.waitList = (i, need) :: rest) (hc : s.contexts[i] = .live c)
    (waiting : c.far = .waiting delay) (held : pages.length = need) :
    ((s.setContext i (.live (c.withFar (.filling (.granted delay pages))))).withWaitList rest).FarSound := by
  obtain ⟨x, delay', hx, waiting', e⟩ := h.2.2 i need (by simp [head])
  obtain rfl : c = x := by simpa [hc] using hx
  obtain rfl : delay = delay' := by simpa [waiting] using waiting'
  have sound := h.call hc
  rw [waiting] at sound
  have once := h.1.1
  rw [head, List.map_cons, List.nodup_cons] at once
  refine h.2.set_of_absent (fun d e' => ?_) (fun e' m => by rw [head]; exact List.mem_cons_of_mem _ m) once.1
  cases e'
  exact FarSection.sound_granted sound.1 sound.2 (held.trans e)

/-- A context that joins the tail of the wait list (R62). -/
theorem State.FarLaw.waited (h : s.FarLaw) {i : CtxNum} {c d : Call} {delay : Nat} (hc : s.contexts[i] = .live c)
    (unset : c.far = .unset) (covers : delay + c.settings.nf ≤ 4096) (hd : c.Stands (.waiting delay) d) :
    ((s.setContext i (.live d)).withWaitList
      (s.history.waitList ++ [(i, pageNeed delay c.settings.nf)])).FarSound := by
  have one := (h.call hc).one_le (by simp [unset])
  have absent : i ∉ s.history.waitList.map Prod.fst := by simp [h.1.mem_iff hc, unset, FarSection.isWaiting]
  refine h.2.replace (fun x e => ?_) (fun k need ne m => ?_) fun need m => ?_
  · cases e
    rw [hd.far, hd.settings]
    exact ⟨one, covers⟩
  · simpa [ne] using m
  · rcases List.mem_append.mp m with m | m
    · exact absurd (List.mem_map_of_mem m) absent
    · obtain ⟨-, rfl⟩ := Prod.mk.inj (List.mem_singleton.mp m)
      exact ⟨d, delay, rfl, hd.far, by rw [hd.settings]; rfl⟩

theorem FarSection.sound_withdraw {c : Call} (h : c.far.Sound c.settings.nf) :
    c.withdraw.far.Sound c.settings.nf := by
  unfold Call.withdraw
  dsimp only
  split
  next waiting => exact h.one_le fun e => by simp [e, FarSection.isWaiting] at waiting
  next => exact h

theorem FarSection.sound_adopted (lane : Lane) (n : Fin 16) (p : Profile) : (adoptedCall lane n p).far.Sound p.nf := by
  unfold adoptedCall
  dsimp only
  split
  next none => exact none
  next some => exact Nat.one_le_iff_ne_zero.mpr some

theorem farLaw_closed : StateClosed State.FarLaw where
  changed h hc hd := ⟨waitListExact_closed.changed h.1 hc hd, h.keep hc hd.far hd.settings⟩
  queued q l h hc := ⟨waitListExact_closed.queued q l h.1 hc, h.keep hc rfl rfl⟩
  engine _ h := h
  granted h head covered hc hd := ⟨waitListExact_closed.granted h.1 head covered hc hd,
    h.granted head hc hd (by simpa using covered)⟩
  skipped {s i need rest} h head no := by
    obtain ⟨c, delay, hc, hd⟩ := h.1.head_waits head
    exact absurd hd (no c delay hc)
  waitLeft {s i c d} h hc waiting hd := ⟨waitListExact_closed.waitLeft h.1 hc waiting hd,
    h.2.set_of_absent (fun x e => by
      cases e
      rw [hd.far, hd.settings]
      exact (h.call hc).one_le fun e => by simp [e, FarSection.isWaiting] at waiting)
      (fun _ m => List.mem_of_mem_filter m) (by rw [mem_map_fst_filter_ne]; simp)⟩
  pagesReturned h hc holds hd := ⟨waitListExact_closed.pagesReturned h.1 hc holds hd,
    h.set hc (FarSection.not_waiting_of_held holds) (by
      rw [hd.far, hd.settings]
      exact ((h.call hc).ring holds).1)⟩
  grantedAtOnce h hc unset covers empty enough hd :=
    ⟨waitListExact_closed.grantedAtOnce h.1 hc unset covers empty enough hd,
    h.set hc (by rw [unset]; rfl) (by
      rw [hd.far, hd.settings]
      exact FarSection.sound_granted ((h.call hc).one_le (by simp [unset])) covers (by simpa using enough))⟩
  waited h hc unset covers hd := ⟨waitListExact_closed.waited h.1 hc unset covers hd, h.waited hc unset covers hd⟩
  redelayed h hc holds enough hd := ⟨waitListExact_closed.redelayed h.1 hc holds enough hd,
    h.set hc (FarSection.not_waiting_of_held holds) (by
      rw [hd.far, hd.settings]
      exact FarSection.sound_redelayed (h.call hc) holds enough)⟩
  sampled {s i c} e ph n h hc := by
    refine ⟨waitListExact_closed.sampled e ph n h.1 hc, h.2.replace (w := s.history.waitList) (fun d e' => ?_)
      (fun _ _ _ m => m) fun need m => ?_⟩
    · cases e'
      simp only [Progress.complete, Call.latchAll_far, Call.latchAll_settings, (sampleStages_sameOwner ph n e _ _).settings]
      exact sampleStages_farSound ph n e _ (h.call hc)
    · obtain ⟨x, delay, hx, waiting, need⟩ := h.2.2 i need m
      obtain rfl : c = x := by simpa [hc] using hx
      refine ⟨_, delay, rfl, ?_, ?_⟩
      · have ringless : c.far.Ringless := by simp [FarSection.Ringless, waiting]
        simp [Progress.complete, (sampleStages_of_ringless ringless ph n e _).1, waiting]
      · simp [Progress.complete, (sampleStages_sameOwner ph n e _ _).settings, need]
  reset h := ⟨waitListExact_closed.reset h.1, fun i c hc => by simp [State.underReset, Context.call?] at hc,
    fun i need m => by simp [State.underReset, History.reset] at m⟩
  withdrawn {s i c} h hc := by
    refine ⟨waitListExact_closed.withdrawn h.1 hc, ?_⟩
    rw [State.leaveLive_of_live hc]
    exact h.2.set_of_absent (fun x e => by cases e; exact FarSection.sound_withdraw (h.call hc))
      (fun _ m => List.mem_of_mem_filter m) (by rw [mem_map_fst_filter_ne]; simp)
  freed {s i c} h hc := ⟨waitListExact_closed.freed h.1 hc,
    h.2.set_of_absent (i := i) (x := .free) (w := s.history.waitList) (fun _ e => nomatch e) (fun _ m => m)
      (h.1.not_mem (by simp [hc]))⟩
  lost h _ _ := h
  won {s b} h on bid := by
    refine ⟨waitListExact_closed.won h.1 on bid, ?_⟩
    rcases s.endBid.winRound_cases b with ⟨p, -, e⟩ | ⟨-, e⟩
    · rcases s.endBid.adopt_cases b.lane b.profile p with ⟨i, -, free, e'⟩ | ⟨-, e'⟩
      · rw [e, e']
        rw [State.endBid_contexts] at free
        exact h.2.set_of_absent (i := i) (x := .live _) (w := s.history.waitList)
          (fun _ e => by cases e; exact FarSection.sound_adopted ..) (fun _ m => m) (h.1.not_mem (by simp [free]))
      · rw [e, e']; exact h.2
    · rw [e]; exact h.2
  announced _ _ _ h _ := h
  driven _ h _ := h

theorem State.WaitListExact.congr (h : s.WaitListExact) (contexts : t.contexts = s.contexts)
    (history : t.history = s.history) : t.WaitListExact := by
  unfold State.WaitListExact
  rw [contexts, history]
  exact h

theorem State.FarSound.congr (h : s.FarSound) (contexts : t.contexts = s.contexts)
    (history : t.history = s.history) : t.FarSound := by
  unfold State.FarSound
  rw [contexts, history]
  exact h

/-- Settles O53: a context joins and leaves the wait list in the same change that makes it wait or stop waiting, and a far
section is granted the pages that its delay needs. -/
theorem farSectionsStaySound : Obligations.FarSectionsStaySound := by
  intro s t exact e
  constructor
  · refine waitListExact_closed.step (fun _ => exact) (fun q m => ?_) e
    obtain ⟨contexts, -, history, -⟩ := m.frame
    exact exact.congr contexts history
  · intro sound
    refine (farLaw_closed.step (fun _ => ⟨exact, sound⟩) (fun q m => ?_) e).2
    obtain ⟨contexts, -, history, -⟩ := m.frame
    exact ⟨exact.congr contexts history, sound.congr contexts history⟩

end Far

end Sys2Proof.Machine
end

section
/-! The fields of a SAMPLE entry after its stages, each traced to the stage that leaves it (R26 to R31). -/

namespace Sys2Proof.Machine

/-- An entry after stage 8: the equalizer line filled and the monitors done. -/
def Progress.monitored (p : Progress) (e : SampleEntry) : Progress :=
  ((p.filter (p.values e)).signalMonitor (p.values e)).errorMonitor (p.values e)

section Later

variable (ph : Phase) (n : Nat) (e : SampleEntry) (p : Progress)

theorem laterStages_eq : laterStages ph n e p =
    ((((p.monitored e).echoAdaptation ph e (p.values e)).eqAdaptation ph e (p.values e)).schedule ph n).result
      (p.values e) := rfl

/-- The monitors leave the lines, the taps, the cursor and the stamp. -/
theorem Progress.monitored_eq : p.monitored e =
    { call := { p.call with
        eqLine := shiftIn (p.values e).e1 (shiftIn (p.values e).e0 p.call.eqLine)
        signalPower := (p.monitored e).call.signalPower, signalState := (p.monitored e).call.signalState
        errorPower := (p.monitored e).call.errorPower, errorState := (p.monitored e).call.errorState
        hold := (p.monitored e).call.hold }
      cells := p.cells, latched := (p.monitored e).latched } := by
  unfold Progress.monitored
  rw [Progress.errorMonitor_eq]
  rfl

/-! ### What a stage reads -/

/-- Stage 10 reads neither the echo taps nor the far section. -/
theorem Progress.eqAdaptation_eqTaps_echo (m : Progress) (v : SampleValues) :
    ((m.echoAdaptation ph e v).eqAdaptation ph e v).call.eqTaps = (m.eqAdaptation ph e v).call.eqTaps := by
  rw [Progress.echoAdaptation_eq]
  unfold Progress.eqAdaptation Call.eqAdapts Call.paused
  dsimp only
  split <;> rfl

/-- Stage 11 reads the frozen flag, the export record and the cursor alone (R96, R97). -/
theorem Progress.schedule_cursor_congr {p q : Progress} (frozen : q.call.frozen = p.call.frozen)
    (exportRun : q.call.exportRun = p.call.exportRun) (phase : q.call.phase = p.call.phase)
    (count : q.call.count = p.call.count) :
    (q.schedule ph n).call.phase = (p.schedule ph n).call.phase ∧
    (q.schedule ph n).call.count = (p.schedule ph n).call.count := by
  unfold Progress.schedule Call.paused
  simp only [frozen, exportRun, phase, count]
  repeat' split
  all_goals exact ⟨by simp only [phase], by simp only [count]⟩

/-! ### Stage 12 (R17, R31) -/

/-- The RESULT of an entry. -/
def Progress.resultEntry (m : Progress) (v : SampleValues) : ResultEntry :=
  { soft := v.soft, decision := v.decision, error := v.error, stamp := m.call.stamp }

theorem Progress.result_of_lt {m : Progress} {v : SampleValues} (room : m.call.outputQueue.length < 4) :
    m.result v = { m with call := { m.call with outputQueue := m.call.outputQueue ++ [m.resultEntry v] } } :=
  if_pos room

theorem Progress.result_of_full {m : Progress} {v : SampleValues} (full : 4 ≤ m.call.outputQueue.length) :
    m.result v = { m with
      call := { m.call with outputQueue := m.call.outputQueue.tail ++ [m.resultEntry v] }
      latched := m.latched ++ [.outputLost] } :=
  if_neg full.not_gt

theorem Progress.result_outputQueue (m : Progress) (v : SampleValues) : (m.result v).call.outputQueue =
    (if m.call.outputQueue.length < 4 then m.call.outputQueue else m.call.outputQueue.tail) ++ [m.resultEntry v] := by
  split
  next room => rw [Progress.result_of_lt room]
  next full => rw [Progress.result_of_full (not_lt.mp full)]

/-! ### The call after stages 3 to 12 -/

/-- Stages 9 to 12 change the taps, the cursor and the output queue; the rest is as the monitors leave it. -/
theorem laterStages_call : (laterStages ph n e p).call =
    { (p.monitored e).call with
      nearTaps := ((p.monitored e).echoAdaptation ph e (p.values e)).call.nearTaps
      farTaps := ((p.monitored e).echoAdaptation ph e (p.values e)).call.farTaps
      eqTaps := ((p.monitored e).eqAdaptation ph e (p.values e)).call.eqTaps
      phase := (p.schedule ph n).call.phase
      count := (p.schedule ph n).call.count
      outputQueue := (if p.call.outputQueue.length < 4 then p.call.outputQueue else p.call.outputQueue.tail) ++
        [p.resultEntry (p.values e)] } := by
  have echo := congrArg Progress.call ((p.monitored e).echoAdaptation_eq ph e (p.values e))
  have adapted := congrArg Progress.call
    (((p.monitored e).echoAdaptation ph e (p.values e)).eqAdaptation_eq ph e (p.values e))
  have start := congrArg Progress.call (p.monitored_eq e)
  rw [Progress.eqAdaptation_eqTaps_echo] at adapted
  rw [laterStages_eq]
  generalize ((p.monitored e).echoAdaptation ph e (p.values e)).eqAdaptation ph e (p.values e) = q at adapted ⊢
  have fields : q.call.frozen = p.call.frozen ∧ q.call.exportRun = p.call.exportRun ∧ q.call.phase = p.call.phase ∧
      q.call.count = p.call.count ∧ q.call.outputQueue = p.call.outputQueue ∧ q.call.stamp = p.call.stamp := by
    rw [adapted, echo, start]
    exact ⟨rfl, rfl, rfl, rfl, rfl, rfl⟩
  obtain ⟨frozen, exportRun, phase, count, output, stamp⟩ := fields
  obtain ⟨cursor, counted⟩ := Progress.schedule_cursor_congr ph n frozen exportRun phase count
  rw [Progress.result_eq, Progress.result_outputQueue, Progress.schedule_eq, cursor, counted]
  simp only [Progress.resultEntry, output, stamp]
  rw [adapted, echo, start]

end Later

end Sys2Proof.Machine
end

section
/-! The sizes of a context: what every step keeps (R15, R42, R43, R76, R77, R90, R107, R109, R110, R120). -/

namespace Sys2Proof.Machine

/-! ### Conditions stay latched through the later stages (R30) -/

section Latched

variable {p : Progress} {x : Condition} (h : x ∈ p.latched)

include h

theorem Progress.mem_latched_echoAdaptation (ph : Phase) (e : SampleEntry) (v : SampleValues) :
    x ∈ (p.echoAdaptation ph e v).latched := by
  unfold Progress.echoAdaptation
  dsimp only
  split
  · split <;> simp [h]
  · simp [h]

theorem Progress.mem_latched_eqAdaptation (ph : Phase) (e : SampleEntry) (v : SampleValues) :
    x ∈ (p.eqAdaptation ph e v).latched := by
  unfold Progress.eqAdaptation
  dsimp only
  split <;> simp [h]

theorem Progress.mem_latched_schedule (ph : Phase) (n : Nat) : x ∈ (p.schedule ph n).latched := by
  unfold Progress.schedule
  dsimp only
  repeat' split
  all_goals simp [h]

theorem Progress.mem_latched_result (v : SampleValues) : x ∈ (p.result v).latched := by
  unfold Progress.result
  dsimp only
  split <;> simp [h]

end Latched

theorem mem_latched_laterStages (ph : Phase) (n : Nat) (e : SampleEntry) {p : Progress} {x : Condition}
    (h : x ∈ (p.monitored e).latched) : x ∈ (laterStages ph n e p).latched := by
  rw [laterStages_eq]
  exact Progress.mem_latched_result (Progress.mem_latched_schedule (Progress.mem_latched_eqAdaptation
    (Progress.mem_latched_echoAdaptation h ph e _) ph e _) ph n) _

/-- A hold is an old one, or DIVERGED is latched with it (R90). -/
theorem Progress.hold_monitored (e : SampleEntry) {p : Progress} (h : (p.monitored e).call.hold = true) :
    p.call.hold = true ∨ .diverged ∈ (p.monitored e).latched := by
  unfold Progress.monitored at *
  generalize hq : (p.filter (p.values e)).signalMonitor (p.values e) = q at *
  have hold : q.call.hold = p.call.hold := by rw [← hq]; rfl
  cases on : q.call.settings.errorMonitorOn with
  | false =>
    rw [Progress.errorMonitor_of_off _ _ on] at h
    exact .inl (hold ▸ h)
  | true =>
    rcases (Progress.errorMonitor_hold_iff _ on).mp h with h | h
    · exact .inl (hold ▸ h)
    · exact .inr ((Progress.diverged_mem_errorMonitor_iff _ on).mpr (.inr h))

/-! ### The call after all stages -/

theorem sampleStages_call (ph : Phase) (n : Nat) (e : SampleEntry) (c : Call) (cells : List (Nat × Sample)) :
    (sampleStages ph n e c cells).call = (laterStages ph n e (historyStages e c cells)).call := rfl

/-- What stages 1 and 2 leave of a call (R27, R28). -/
theorem historyStages_eq (e : SampleEntry) (c : Call) (cells : List (Nat × Sample)) :
    (historyStages e c cells).call =
      { c with far := (historyStages e c cells).call.far, nearLine := (historyStages e c cells).call.nearLine
               eqLine := (historyStages e c cells).call.eqLine, stamp := (historyStages e c cells).call.stamp } := by
  have gap := congrArg Progress.call (Progress.gapFill_eq { call := c, cells := cells, latched := [] } e.gap)
  unfold historyStages
  rw [Progress.historyWrite_eq]
  rw [gap]

/-! ### Properties of the calls of all contexts -/

/-- Every context that is not FREE holds a call with the property. -/
def Context.Holds (R : Call → Prop) : Context → Prop
  | .free => True
  | .live c => R c
  | .releasing c => R c

theorem Context.holds_iff {R : Call → Prop} {x : Context} : x.Holds R ↔ ∀ c, x.call? = some c → R c := by
  cases x <;> simp [Context.Holds, Context.call?]

theorem State.allContexts_iff {R : Call → Prop} {s : State} :
    s.AllContexts (Context.Holds R) ↔ ∀ (i : CtxNum) (c : Call), s.contexts[i].call? = some c → R c :=
  forall_congr' fun _ => Context.holds_iff

/-- A property of calls that reads none of the fields by which a call is queued, latched or given a far section. -/
structure CallClosed (R : Call → Prop) : Prop where
  queued : ∀ (c : Call) (input : List Entry) (output : List ResultEntry) (last : Option (BitVec 4)) (due : Bool)
    (far : FarSection), R c →
    R { c with inputQueue := input, outputQueue := output, lastSequence := last, statusDue := due, far := far }
  latched : ∀ (c : Call) (x : Condition), R c → R (c.latch x)
  frozen : ∀ (c : Call) (b : Bool), R c → R { c with frozen := b }
  zeroed : ∀ c : Call, R c → R c.zeroFarTaps
  imported : ∀ (c : Call) (part : TapSection) (m : Nat) (t u : Tap), R c → R (c.importTaps part m t u)
  exported : ∀ (c : Call) (part : TapSection) (first count : Nat) (consistent : Bool),
    first < c.settings.segments part → R c →
    R { c with exportRun := some { part := part, next := first
                                   last := lastSegment (c.settings.segments part) first count
                                   consistent := consistent } }
  exportEnded : ∀ c : Call, R c → R { c with exportRun := none }
  segmentWritten : ∀ (c : Call) (e : ExportRecord), c.exportRun = some e → e.next ≠ e.last → R c →
    R { c with exportRun := some { e with next := e.next + 1 } }
  restarted : ∀ (c : Call) (x y : Bool), R c → R (c.restart.retrainTaps x y)
  cleared : ∀ (c : Call) (mask : BitVec 19), R c → R (c.clear mask)

theorem CallClosed.abortExport {R : Call → Prop} (closed : CallClosed R) {c : Call} (h : R c) : R c.abortExport := by
  unfold Call.abortExport
  split
  · exact closed.latched _ _ (closed.exportEnded c h)
  · exact h

theorem CallClosed.latchedAll {R : Call → Prop} (closed : CallClosed R) {c : Call} (h : R c) (xs : List Condition) :
    R (c.latchAll xs) := by
  induction xs generalizing c with
  | nil => exact h
  | cons x rest ih => exact ih (closed.latched c x h)

/-- The elementary changes of a context keep a property that its calls keep. -/
theorem CallClosed.contexts {R : Call → Prop} (closed : CallClosed R) : ContextClosed (Context.Holds R) where
  free := trivial
  withdrawn c h := closed.queued c _ _ c.lastSequence _ _ h
  granted c _ _ h _ := closed.queued c c.inputQueue c.outputQueue c.lastSequence c.statusDue _ h
  taken c _ rest h _ := closed.queued c rest c.outputQueue c.lastSequence c.statusDue c.far h
  enqueued c _ h _ := closed.queued c _ c.outputQueue _ c.statusDue c.far h
  latched c x h := closed.latched c x h
  upstream c h := by
    unfold Call.upstreamChoice
    split
    · exact closed.queued c c.inputQueue _ c.lastSequence c.statusDue c.far h
    · split
      · exact closed.queued c c.inputQueue c.outputQueue c.lastSequence _ c.far h
      · split
        next e running =>
          dsimp only
          unfold Call.afterSegment
          split
          · exact closed.latched _ _ (closed.exportEnded c h)
          next more => exact closed.segmentWritten c e running more h
        next => exact h
  frozen c b h := closed.frozen c b h
  retrained c x y h := closed.abortExport (closed.restarted c x y h)
  cleared c mask h := closed.cleared c mask h
  exported c part first count consistent h := by
    have aborted : R c.abortExport := closed.abortExport h
    unfold Call.startExport
    split
    · split
      next inside => exact closed.exported _ _ _ _ _ inside aborted
      next => exact closed.latched _ _ aborted
    · exact closed.latched _ _ aborted
  imported c part m t u h := closed.imported c part m t u h
  delayed c f h := closed.queued c.zeroFarTaps c.inputQueue c.outputQueue c.lastSequence c.statusDue f (closed.zeroed c h)
  turnedOff c h := closed.queued c c.inputQueue c.outputQueue c.lastSequence c.statusDue .unset h

/-! ### DIVERGED under a hold (R90) -/

/-- CLEAR removes the conditions of its mask and no other (R117). -/
theorem Call.isPending_clear (c : Call) (mask : BitVec 19) (x : Condition) :
    (c.clear mask).isPending x = (c.isPending x && !mask.getLsbD (x.code - 1)) := by
  have range := x.code_range
  have bit : x.code - 1 < 19 := by omega
  simp [Call.clear, Call.isPending, bit]

/-- A call under a hold has DIVERGED pending. -/
def Call.HoldPending (c : Call) : Prop := c.hold = true → c.isPending .diverged = true

theorem holdPending_closed : CallClosed Call.HoldPending where
  queued _ _ _ _ _ _ h := h
  latched c x h hold := by
    rw [Call.isPending_latch, h (by simpa using hold), Bool.true_or]
  frozen _ _ h := h
  zeroed _ h := h
  imported c part _ _ _ h := by cases part <;> exact h
  exported _ _ _ _ _ _ h := h
  exportEnded _ h := h
  segmentWritten _ _ _ _ h := h
  restarted _ _ _ _ hold := nomatch hold
  cleared c mask h hold := by
    simp only [Call.clear] at hold
    split at hold
    · cases hold
    next kept =>
      rw [Call.isPending_clear, h hold]
      simpa [Condition.code] using kept

theorem holdPending_sampled (ph : Phase) (n : Nat) (e : SampleEntry) {c : Call} (cells : List (Nat × Sample))
    (h : c.HoldPending) : (sampleStages ph n e c cells).complete.HoldPending := by
  intro hold
  have owner := sampleStages_sameOwner ph n e c cells
  have pending : (sampleStages ph n e c cells).call.isPending .diverged = c.isPending .diverged := by
    simp only [Call.isPending, owner.conditions]
  rw [Progress.complete, Call.isPending_latchAll, pending]
  rw [Progress.complete, Call.latchAll_hold, sampleStages_call, laterStages_call] at hold
  rcases Progress.hold_monitored e hold with old | new
  · rw [historyStages_eq] at old
    simp [h old]
  · simp [sampleStages, mem_latched_laterStages ph n e new]

/-! ### Lines and sections of taps (R42, R43, R76, R77) -/

theorem length_shiftZeros (n : Nat) (line : List Sample) : (shiftZeros n line).length = line.length := by
  induction n generalizing line with
  | zero => rfl
  | succ n ih => rw [shiftZeros, ih, length_shiftIn]

theorem historyStages_length (e : SampleEntry) (c : Call) (cells : List (Nat × Sample)) :
    (historyStages e c cells).call.nearLine.length = c.nearLine.length ∧
    (historyStages e c cells).call.eqLine.length = c.eqLine.length := by
  have gap : (Progress.gapFill { call := c, cells := cells, latched := [] } e.gap).call.nearLine.length =
      c.nearLine.length ∧
      (Progress.gapFill { call := c, cells := cells, latched := [] } e.gap).call.eqLine.length = c.eqLine.length := by
    unfold Progress.gapFill
    split
    · exact ⟨rfl, rfl⟩
    · dsimp only
      rw [length_shiftZeros, length_shiftZeros, Progress.writeZeros_eq]
      exact ⟨rfl, rfl⟩
  rw [historyStages, Progress.historyWrite_eq]
  exact ⟨(length_shiftIn _ _).trans gap.1, gap.2⟩

/-- Stage 9 keeps the lengths of the echo taps. -/
theorem Progress.length_echoAdaptation {p : Progress} (ph : Phase) (e : SampleEntry) (v : SampleValues)
    (line : p.call.nearLine.length = p.call.settings.nn) (near : p.call.nearTaps.length = 2 * p.call.settings.nn)
    (far : p.call.farTaps.length = 2 * p.call.settings.nf) :
    (p.echoAdaptation ph e v).call.nearTaps.length = 2 * p.call.settings.nn ∧
    (p.echoAdaptation ph e v).call.farTaps.length = 2 * p.call.settings.nf := by
  by_cases adapts : p.call.echoAdapts ph e = true
  · rw [Progress.echoAdaptation_nearTaps v adapts]
    refine ⟨(stepSection_holds ph.se v near line).1, ?_⟩
    by_cases active : ph.farAdapt = true ∧ p.call.far.isActive = true
    · obtain ⟨on, isActive⟩ := active
      obtain ⟨r, hr⟩ := p.call.far.isActive_iff.mp isActive
      rw [Progress.echoAdaptation_of_far v adapts on isActive]
      exact (stepSection_holds ph.se v far (Progress.farWindow_length hr)).1
    · rw [Progress.echoAdaptation_farTaps_kept v active]
      exact far
  · rw [Progress.echoAdaptation_of_not_adapts v adapts]
    exact ⟨near, far⟩

theorem Progress.length_eqAdaptation {p : Progress} (ph : Phase) (e : SampleEntry) (v : SampleValues)
    (line : p.call.eqLine.length = p.call.eqTaps.length) :
    (p.eqAdaptation ph e v).call.eqTaps.length = p.call.eqTaps.length := by
  unfold Progress.eqAdaptation
  split
  · simp [line]
  · rfl

theorem shaped_closed : CallClosed Call.Shaped where
  queued _ _ _ _ _ _ h := h
  latched c x h := by simpa [Call.Shaped] using h
  frozen _ _ h := h
  zeroed c h := by simpa [Call.Shaped, Call.zeroFarTaps, zeroed] using h
  imported c part _ _ _ h := by
    cases part <;> simpa [Call.Shaped, Call.importTaps, Call.withSection, Call.sectionTaps] using h
  exported _ _ _ _ _ _ h := h
  exportEnded _ h := h
  segmentWritten _ _ _ _ h := h
  restarted c x y h := by
    cases x <;> cases y <;> simpa [Call.Shaped, Call.restart, Call.retrainTaps, zeroed] using h
  cleared _ _ h := h

theorem shaped_adopted (lane : Lane) (n : Fin 16) (p : Profile) : (adoptedCall lane n p).Shaped := by
  simp [Call.Shaped, adoptedCall]

theorem historyStages_shaped (e : SampleEntry) {c : Call} (cells : List (Nat × Sample)) (h : c.Shaped) :
    (historyStages e c cells).call.Shaped := by
  obtain ⟨line, near, far, eqLine, eqTaps⟩ := h
  obtain ⟨nearLength, eqLength⟩ := historyStages_length e c cells
  rw [historyStages_eq]
  exact ⟨nearLength.trans line, near, far, eqLength.trans eqLine, eqTaps⟩

theorem Progress.monitored_shaped (e : SampleEntry) {p : Progress} (h : p.call.Shaped) :
    (p.monitored e).call.Shaped := by
  obtain ⟨line, near, far, eqLine, eqTaps⟩ := h
  rw [Progress.monitored_eq]
  exact ⟨line, near, far, by simpa using eqLine, eqTaps⟩

theorem laterStages_shaped (ph : Phase) (n : Nat) (e : SampleEntry) {p : Progress} (h : p.call.Shaped) :
    (laterStages ph n e p).call.Shaped := by
  obtain ⟨line, near, far, eqLine, eqTaps⟩ := p.monitored_shaped e h
  obtain ⟨nearTaps, farTaps⟩ := Progress.length_echoAdaptation ph e (p.values e) line near far
  rw [laterStages_call]
  exact ⟨line, nearTaps, farTaps, eqLine,
    (Progress.length_eqAdaptation ph e (p.values e) (eqLine.trans eqTaps.symm)).trans eqTaps⟩

theorem shaped_sampled (ph : Phase) (n : Nat) (e : SampleEntry) {c : Call} (cells : List (Nat × Sample))
    (h : c.Shaped) : (sampleStages ph n e c cells).complete.Shaped :=
  shaped_closed.latchedAll (laterStages_shaped ph n e (historyStages_shaped e cells h)) _

/-! ### Export records (R120) -/

/-- An export record stands within its section. -/
def Call.ExportInRange (c : Call) : Prop :=
  ∀ e, c.exportRun = some e → e.next ≤ e.last ∧ e.last < c.settings.segments e.part

theorem exportInRange_closed : CallClosed Call.ExportInRange where
  queued _ _ _ _ _ _ h := h
  latched c x h := by simpa [Call.ExportInRange] using h
  frozen _ _ h := h
  zeroed _ h := h
  imported c part _ _ _ h := by cases part <;> exact h
  exported c part first count consistent inside _ e running := by
    cases running
    simp only [lastSegment]
    split <;> omega
  exportEnded _ _ _ running := nomatch running
  segmentWritten c e running more h e' running' := by
    cases running'
    obtain ⟨le, lt⟩ := h e running
    exact ⟨by dsimp only; omega, lt⟩
  restarted _ _ _ h := h
  cleared _ _ h := h

/-! ### Powers (R107, R109, R110) -/

/-- The powers of a call are within their bounds, and so is the threshold that the error power starts from. -/
def Call.PowersWithin (c : Call) : Prop :=
  (c.signalPower ≤ 2 ^ 31 + 2 ^ c.settings.ks ∧ c.errorPower < 2 ^ 32) ∧ c.settings.tDiv < 2 ^ 32

theorem Profile.initialErrorPower_lt {p : Profile} (h : p.tDiv < 2 ^ 32) : p.initialErrorPower < 2 ^ 32 := by
  unfold Profile.initialErrorPower
  split
  · exact h
  · decide

theorem powersWithin_closed : CallClosed Call.PowersWithin where
  queued _ _ _ _ _ _ h := h
  latched c x h := by simpa [Call.PowersWithin] using h
  frozen _ _ h := h
  zeroed _ h := h
  imported c part _ _ _ h := by cases part <;> exact h
  exported _ _ _ _ _ _ h := h
  exportEnded _ h := h
  segmentWritten _ _ _ _ h := h
  restarted _ _ _ h := ⟨⟨h.1.1, Profile.initialErrorPower_lt h.2⟩, h.2⟩
  cleared _ _ h := h

theorem Progress.monitored_powersWithin (e : SampleEntry) {p : Progress} (h : p.call.PowersWithin) :
    (p.monitored e).call.PowersWithin := by
  obtain ⟨⟨signal, error⟩, threshold⟩ := h
  unfold Progress.monitored
  have averaged := (p.filter (p.values e)).signalMonitor_signalPower_le (p.values e) signal
  generalize hq : (p.filter (p.values e)).signalMonitor (p.values e) = q at *
  have fields : q.call.settings = p.call.settings ∧ q.call.errorPower = p.call.errorPower := by
    rw [← hq]; exact ⟨rfl, rfl⟩
  obtain ⟨settings, errorPower⟩ := fields
  have errorAveraged : (q.errorMonitor (p.values e)).call.errorPower < 2 ^ 32 := by
    cases on : q.call.settings.errorMonitorOn with
    | false => rw [Progress.errorMonitor_of_off _ _ on, errorPower]; exact error
    | true => exact Progress.errorMonitor_errorPower_lt _ on (errorPower ▸ error)
  have kept := congrArg Progress.call (q.errorMonitor_eq (p.values e))
  refine ⟨⟨?_, errorAveraged⟩, ?_⟩
  · rw [kept]
    simp only [settings]
    exact averaged
  · rw [kept]
    simpa only [settings] using threshold

theorem powersWithin_sampled (ph : Phase) (n : Nat) (e : SampleEntry) {c : Call} (cells : List (Nat × Sample))
    (h : c.PowersWithin) : (sampleStages ph n e c cells).complete.PowersWithin := by
  refine powersWithin_closed.latchedAll ?_ _
  have start : (historyStages e c cells).call.PowersWithin := by rw [historyStages_eq]; exact h
  rw [sampleStages_call, laterStages_call]
  exact Progress.monitored_powersWithin e start

/-! ### Queues (R15, R7) -/

/-- The queues of a context: bounded while it is LIVE, empty while it is RELEASING. -/
def Context.QueuesWithin : Context → Prop
  | .free => True
  | .live c => c.inputQueue.length ≤ 3 ∧ c.outputQueue.length ≤ 4
  | .releasing c => c.inputQueue = [] ∧ c.outputQueue = [] ∧ c.statusDue = false

theorem State.queuesBounded_iff (s : State) : s.QueuesBounded ↔ s.AllContexts Context.QueuesWithin := by
  constructor
  · rintro ⟨live, releasing⟩ i
    cases hc : s.contexts[i] with
    | free => trivial
    | live c => exact live i c hc
    | releasing c => exact releasing i c hc
  · intro h
    refine ⟨fun i c hc => ?_, fun i c hc => ?_⟩ <;> simpa [hc, Context.QueuesWithin] using h i

/-- A call whose output queue is not longer than another's, with the same input queue, is within the bounds if that is. -/
theorem Context.QueuesWithin.of_le {c d : Call} (h : (Context.live c).QueuesWithin)
    (input : d.inputQueue = c.inputQueue) (output : d.outputQueue.length ≤ c.outputQueue.length) :
    (Context.live d).QueuesWithin :=
  ⟨input ▸ h.1, output.trans h.2⟩

theorem Call.abortExport_outputQueue (c : Call) : c.abortExport.outputQueue = c.outputQueue := by
  unfold Call.abortExport
  split <;> simp

theorem Call.startExport_outputQueue (c : Call) (part : Option TapSection) (first count : Nat) (consistent : Bool) :
    (c.startExport part first count consistent).outputQueue = c.outputQueue := by
  unfold Call.startExport
  split
  · split <;> simp
  · simp

/-- An upstream write takes the head of the output queue or leaves the queue (R136). -/
theorem Call.upstreamChoice_outputQueue (c : Call) : c.upstreamChoice.2.outputQueue = c.outputQueue.tail := by
  unfold Call.upstreamChoice
  split
  next queue => rw [queue]; rfl
  next empty =>
    split
    · simp [empty]
    · split
      · unfold Call.afterSegment
        split <;> simp [empty]
      · simp [empty]

theorem queuesWithin_closed : ContextClosed Context.QueuesWithin where
  free := trivial
  withdrawn _ _ := ⟨rfl, rfl, rfl⟩
  granted _ _ _ h _ := h
  taken c e rest h queue := by
    obtain ⟨input, output⟩ := h
    rw [queue, List.length_cons] at input
    exact ⟨by dsimp only; omega, output⟩
  enqueued c e h room := by
    refine ⟨?_, h.2⟩
    simp only [Call.enqueue, List.length_append, List.length_singleton, Config.inputCapacity] at *
    omega
  latched c x h := h.of_le (by simp) (by simp)
  upstream c h := h.of_le c.upstreamChoice_sameStanding.inputQueue (by simp [c.upstreamChoice_outputQueue])
  frozen _ _ h := h
  retrained c x y h := h.of_le (c.retrain_sameStanding x y).inputQueue
    (congrArg List.length (Call.abortExport_outputQueue (c.restart.retrainTaps x y))).le
  cleared _ _ h := h
  exported c part first count consistent h := h.of_le
    ((c.abortExport.startExport_sameStanding part first count consistent).inputQueue.trans
      c.abortExport_sameStanding.inputQueue)
    (by rw [Call.startExport_outputQueue, Call.abortExport_outputQueue])
  imported c part _ _ _ h := by cases part <;> exact h
  delayed _ _ h := h
  turnedOff _ h := h

theorem queuesWithin_sampled (ph : Phase) (n : Nat) (e : SampleEntry) {c : Call} (cells : List (Nat × Sample))
    (h : (Context.live c).QueuesWithin) : (Context.live (sampleStages ph n e c cells).complete).QueuesWithin := by
  obtain ⟨input, output⟩ := h
  have kept := (sampleStages_sameOwner ph n e c cells).inputQueue
  have queue : (historyStages e c cells).call.outputQueue = c.outputQueue := by rw [historyStages_eq]
  refine ⟨by simpa [Progress.complete, kept] using input, ?_⟩
  rw [Progress.complete, Call.latchAll_outputQueue, sampleStages_call, laterStages_call]
  simp only [queue, List.length_append, List.length_singleton]
  split
  · omega
  · rw [List.length_tail]; omega

/-! ### Every step -/

/-- A property of calls that every adopted call has, that a SAMPLE entry keeps and that the other changes keep, is kept by
every step. -/
theorem CallClosed.step {R : Call → Prop} (closed : CallClosed R) {s t : State}
    (adopted : ∀ (lane : Lane) (n : Fin 16) (p : Profile), s.loader.profiles[n] = some p → R (adoptedCall lane n p))
    (sampled : ∀ (ph : Phase) (n : Nat) (e : SampleEntry) {c : Call} (cells : List (Nat × Sample)), R c →
      R (sampleStages ph n e c cells).complete)
    (h : ∀ (i : CtxNum) (c : Call), s.contexts[i].call? = some c → R c) (e : step s = .next t) :
    ∀ (i : CtxNum) (c : Call), t.contexts[i].call? = some c → R c :=
  State.allContexts_iff.mp (State.AllContexts.step closed.contexts adopted
    (fun _ e _ ph n _ _ hc => sampled ph n e _ hc) (State.allContexts_iff.mpr h) e)

/-- Settles O57: each bound is a property of the contexts one by one, kept by the elementary changes, by adoption and by a
SAMPLE entry. -/
theorem contextSizesStayInBounds : Obligations.ContextSizesStayInBounds := by
  intro s t e
  refine ⟨fun h => ?_, fun h => ?_, fun h => ?_, fun h => ?_, fun profiles h => ?_⟩
  · rw [State.queuesBounded_iff] at h ⊢
    exact h.step queuesWithin_closed (fun _ _ _ _ => ⟨Nat.zero_le _, Nat.zero_le _⟩)
      (fun _ e _ ph n _ _ hc => queuesWithin_sampled ph n e _ hc) e
  · exact holdPending_closed.step (fun _ _ _ _ hold => nomatch hold) holdPending_sampled h e
  · exact shaped_closed.step (fun lane n p _ => shaped_adopted lane n p) shaped_sampled h e
  · have within := exportInRange_closed.step (s := s) (t := t) (fun _ _ _ _ _ running => nomatch running)
      (fun ph n e c cells hc => ?_) (fun i c hc x => h i c x hc) e
    · exact fun i c x hc => within i c hc x
    · have owner := sampleStages_sameOwner ph n e c cells
      simpa [Call.ExportInRange, Progress.complete, owner.exportRun, owner.settings] using hc
  · have within := powersWithin_closed.step (s := s) (t := t) (fun lane n p hp => ?_) powersWithin_sampled
      (fun i c hc => ⟨h i c hc, (profiles.thresholds _ _ (profiles.settings i c hc)).2.2.2⟩) e
    · exact fun i c hc => (within i c hc).1
    · have threshold := (profiles.thresholds n p hp).2.2.2
      exact ⟨⟨Nat.zero_le _, Profile.initialErrorPower_lt threshold⟩, threshold⟩

end Sys2Proof.Machine
end

section
/-! The row of each station state: what every step keeps (R138 to R143, R155 to R157, R163). -/

namespace Sys2Proof.Machine

section Rows

variable {s t : State}

/-! ### The rows one by one (R142, R155) -/

/-- What the adoption unit and the highway interface hold outside ACTIVE (R138, R143). -/
def State.Silent (s : State) : Prop :=
  s.highway.upstreamHalf = none ∧ s.adoption.bid = none ∧ s.adoption.confirm = none ∧
    ∀ k : Lane, s.adoption.announced[k] = none

/-- What a station that follows the highway has from its load (R157, R163). -/
def State.Served (s : State) : Prop :=
  s.adoption.stationNumber.isSome = true ∧ ∃ k : Fin 16, s.loader.profiles[k].isSome = true

/-- The loader rests, without a fault. -/
def Loader.Rested (l : Loader) : Prop := l.faultLow = false ∧ l.loadStep = .idle ∧ l.spi = none

/-- The row of ACTIVE. -/
theorem State.StationRow.of_active (station : s.loader.station = .active) (rested : s.loader.Rested)
    (watch : ∃ t, s.highway.watch = some t ∧ t < Config.watchPeriods) (good : s.highway.goodFrames = 64)
    (served : s.Served) : s.StationRow := by
  obtain ⟨fault, step, spi⟩ := rested
  obtain ⟨t, running, bound⟩ := watch
  constructor
  case watch => exact .inl ⟨t, running, bound⟩
  case served => exact fun _ => served
  all_goals simp [station, fault, step, spi, running, good]

/-- The row of UNSYNCED. -/
theorem State.StationRow.of_unsynced (station : s.loader.station = .unsynced) (rested : s.loader.Rested)
    (watch : ∃ t, s.highway.watch = some t ∧ t < Config.watchPeriods) (good : s.highway.goodFrames ≤ 63)
    (silent : s.Silent) (noneLive : ∀ (i : CtxNum) (c : Call), s.contexts[i] ≠ .live c) (served : s.Served) :
    s.StationRow := by
  obtain ⟨fault, step, spi⟩ := rested
  obtain ⟨t, running, bound⟩ := watch
  constructor
  case watch => exact .inl ⟨t, running, bound⟩
  case served => exact fun _ => served
  case silent => exact fun _ => silent
  case live =>
    intro i live
    cases hc : s.contexts[i] with
    | live c => exact absurd hc (noneLive i c)
    | _ => simp [hc, Context.isLive] at live
  all_goals simp [station, fault, step, spi, running, good]

/-- The rows of RESET, LOADING and LISTEN_ONLY, which differ in the loader alone. -/
theorem State.StationRow.of_off (notUnsynced : s.loader.station ≠ .unsynced) (notActive : s.loader.station ≠ .active)
    (fault : s.loader.faultLow = true ↔ s.loader.station = .listenOnly)
    (loading : s.loader.loadStep ≠ .idle ↔ s.loader.station = .loading)
    (spi : s.loader.spi.isSome = true ↔ s.loader.station = .loading)
    (highway : s.highway.frameNumber = none ∧ s.highway.watch = none ∧ s.highway.goodFrames = 0)
    (silent : s.Silent) (free : ∀ i : CtxNum, s.contexts[i] = .free)
    (numbered : s.loader.station = .loading → s.adoption.stationNumber.isSome = true) : s.StationRow := by
  obtain ⟨frame, watch, good⟩ := highway
  refine ⟨fault, loading, spi, fun _ _ => frame, .inr watch, by simp [watch, notUnsynced, notActive],
    fun h => absurd h notActive, fun h => absurd h notUnsynced, fun _ _ => good, fun _ => silent, fun i live => ?_,
    fun _ _ => free, fun h => absurd h (by simp [notUnsynced, notActive]), numbered⟩
  simp [free i, Context.isLive] at live

/-! ### What a row says -/

theorem State.StationRow.rested (row : s.StationRow)
    (follows : s.loader.station = .unsynced ∨ s.loader.station = .active) : s.loader.Rested := by
  refine ⟨?_, ?_, ?_⟩
  · have := row.faultPin
    rcases follows with h | h <;> simpa [h] using this
  · have := row.loading
    rcases follows with h | h <;> simpa [h] using this
  · have := row.spi
    rcases follows with h | h <;> simpa [h] using this

theorem State.StationRow.watching (row : s.StationRow)
    (follows : s.loader.station = .unsynced ∨ s.loader.station = .active) :
    ∃ t, s.highway.watch = some t ∧ t < Config.watchPeriods :=
  row.watch.resolve_right fun stopped => by simpa [stopped] using row.watchRuns.mpr follows

theorem State.StationRow.noneLive (row : s.StationRow) (station : s.loader.station ≠ .active) (i : CtxNum) (c : Call) :
    s.contexts[i] ≠ .live c := fun hc => station (row.live i (by rw [hc]; rfl))

theorem State.StationRow.active_of_live (row : s.StationRow) {i : CtxNum} {c : Call} (hc : s.contexts[i] = .live c) :
    s.loader.station = .active := row.live i (by rw [hc]; rfl)

/-- A loading station: everything but the loader rests. -/
theorem State.StationRow.off (row : s.StationRow) (notUnsynced : s.loader.station ≠ .unsynced)
    (notActive : s.loader.station ≠ .active) :
    (s.highway.frameNumber = none ∧ s.highway.watch = none ∧ s.highway.goodFrames = 0) ∧ s.Silent ∧
    ∀ i : CtxNum, s.contexts[i] = .free := by
  have stopped : s.highway.watch = none := by
    have := row.watchRuns
    simpa [notUnsynced, notActive] using this
  exact ⟨⟨row.noFrame notUnsynced notActive, stopped, row.goodOther notUnsynced notActive⟩, row.silent notActive,
    row.free notUnsynced notActive⟩

/-! ### Changes of the contexts -/

/-- The row of ACTIVE after a move that leaves the loader but may restart the watch. -/
theorem State.StationRow.active_kept (row : s.StationRow) (station : s.loader.station = .active)
    (loader : t.loader = s.loader) (watch : ∃ t', t.highway.watch = some t' ∧ t' < Config.watchPeriods)
    (good : t.highway.goodFrames = s.highway.goodFrames)
    (number : t.adoption.stationNumber = s.adoption.stationNumber) : t.StationRow := by
  refine .of_active (loader ▸ station) (loader ▸ row.rested (.inr station)) watch
    (good.trans (row.goodActive station)) ?_
  unfold State.Served
  rw [number, loader]
  exact row.served (.inr station)

/-- The row of ACTIVE says nothing of the contexts, the entries, a bid, a confirm or the half driven. -/
theorem State.StationRow.active_congr (row : s.StationRow) (station : s.loader.station = .active)
    (loader : t.loader = s.loader) (watch : t.highway.watch = s.highway.watch)
    (good : t.highway.goodFrames = s.highway.goodFrames)
    (number : t.adoption.stationNumber = s.adoption.stationNumber) : t.StationRow :=
  row.active_kept station loader (watch ▸ row.watching (.inr station)) good number

/-- A RELEASING context that becomes FREE, in UNSYNCED or ACTIVE. -/
theorem State.StationRow.freed (row : s.StationRow) {i : CtxNum} {c : Call} (hc : s.contexts[i] = .releasing c)
    (loader : t.loader = s.loader) (highway : t.highway = s.highway)
    (adoption : t.adoption.announced = s.adoption.announced ∧ t.adoption.bid = s.adoption.bid ∧
      t.adoption.confirm = s.adoption.confirm ∧ t.adoption.stationNumber = s.adoption.stationNumber)
    (contexts : t.contexts = (s.setContext i .free).contexts) : t.StationRow := by
  obtain ⟨announced, bid, confirm, number⟩ := adoption
  by_cases active : s.loader.station = .active
  · exact row.active_congr active loader (by rw [highway]) (by rw [highway]) number
  · have unsynced : s.loader.station = .unsynced := by
      by_contra notUnsynced
      simpa [hc] using row.free notUnsynced active i
    refine .of_unsynced (loader ▸ unsynced) (loader ▸ row.rested (.inl unsynced))
      (highway ▸ row.watching (.inl unsynced)) (highway ▸ row.goodUnsynced unsynced) ?_ (fun j d hd => ?_) ?_
    · unfold State.Silent
      rw [highway, announced, bid, confirm]
      exact row.silent active
    · rw [contexts, State.setContext_get] at hd
      split at hd
      · cases hd
      · exact row.noneLive active j d hd
    · unfold State.Served
      rw [number, loader]
      exact row.served (.inl unsynced)

theorem State.winRound_row (b : Bid) : (s.endBid.winRound b).loader = s.loader ∧
    (s.endBid.winRound b).highway = s.highway ∧
    (s.endBid.winRound b).adoption.stationNumber = s.adoption.stationNumber := by
  rcases s.endBid.winRound_cases b with ⟨p, -, e⟩ | ⟨-, e⟩
  · rcases s.endBid.adopt_cases b.lane b.profile p with ⟨i, -, -, e'⟩ | ⟨-, e'⟩ <;> rw [e, e'] <;> exact ⟨rfl, rfl, rfl⟩
  · rw [e]; exact ⟨rfl, rfl, rfl⟩

theorem State.underReset_row (s : State) : s.underReset.StationRow := by
  refine .of_off (by simp [State.underReset, Loader.reset]) (by simp [State.underReset, Loader.reset])
    (by simp [State.underReset, Loader.reset]) (by simp [State.underReset, Loader.reset])
    (by simp [State.underReset, Loader.reset]) ⟨rfl, rfl, rfl⟩ ⟨rfl, rfl, rfl, fun k => ?_⟩ (fun i => ?_)
    (by simp [State.underReset, Loader.reset])
  · simp [State.underReset, Adoption.reset]
  · simp [State.underReset]

theorem stationRow_closed : StateClosed State.StationRow where
  changed row hc _ := row.active_congr (row.active_of_live hc) rfl rfl rfl rfl
  queued _ _ row hc := row.active_congr (row.active_of_live hc) rfl rfl rfl rfl
  engine _ row := row.congr rfl rfl rfl rfl
  granted row _ _ hc _ := row.active_congr (row.active_of_live hc) rfl rfl rfl rfl
  skipped row _ _ := row.congr rfl rfl rfl rfl
  waitLeft row hc _ _ := row.active_congr (row.active_of_live hc) rfl rfl rfl rfl
  pagesReturned row hc _ _ := row.active_congr (row.active_of_live hc) rfl rfl rfl rfl
  grantedAtOnce row hc _ _ _ _ _ := row.active_congr (row.active_of_live hc) rfl rfl rfl rfl
  waited row hc _ _ _ := row.active_congr (row.active_of_live hc) rfl rfl rfl rfl
  redelayed row hc _ _ _ := row.active_congr (row.active_of_live hc) rfl rfl rfl rfl
  sampled _ _ _ row hc := row.active_congr (row.active_of_live hc) rfl rfl rfl rfl
  reset {s} _ := s.underReset_row
  withdrawn {s i c} row hc := row.active_congr (row.active_of_live hc) (by simp) (by simp) (by simp) (by simp)
  freed row hc := row.freed hc rfl rfl ⟨rfl, rfl, rfl, rfl⟩ rfl
  lost row active noneLive := .of_unsynced rfl (row.rested (.inr active)) ⟨0, rfl, by decide⟩ (Nat.zero_le _)
    ⟨rfl, rfl, rfl, fun k => by simp⟩ noneLive (row.served (.inr active))
  won {s b} row on _ := by
    obtain ⟨loader, highway, number⟩ := s.winRound_row b
    exact row.active_congr (s.onHighway_iff.mp on).1 loader (by rw [highway]) (by rw [highway]) number
  announced {s} lane entry _ row on := by
    have active : (s.releaseOwner lane).loader.station = .active := by
      have loader : (s.releaseOwner lane).loader = s.loader := by
        unfold State.releaseOwner
        split
        · exact (s.releaseContext_fields _).1
        · rfl
      rw [loader]
      exact (s.onHighway_iff.mp on).1
    exact row.active_congr active rfl rfl rfl rfl
  driven {s} half row on := row.active_congr (s.onHighway_iff.mp on).1 rfl rfl rfl rfl

/-! ### Moves of the station -/

/-- The row of UNSYNCED after a move that leaves the loader and the contexts. -/
theorem State.StationRow.unsynced_kept (row : s.StationRow) (station : s.loader.station = .unsynced)
    (loader : t.loader = s.loader) (watch : ∃ t', t.highway.watch = some t' ∧ t' < Config.watchPeriods)
    (good : t.highway.goodFrames ≤ 63) (silent : t.Silent) (contexts : t.contexts = s.contexts)
    (number : t.adoption.stationNumber = s.adoption.stationNumber) : t.StationRow := by
  refine .of_unsynced (loader ▸ station) (loader ▸ row.rested (.inl station)) watch good silent
    (fun i c hc => row.noneLive (by simp [station]) i c (contexts ▸ hc)) ?_
  unfold State.Served
  rw [number, loader]
  exact row.served (.inl station)

theorem State.StationRow.silent_of_unsynced (row : s.StationRow) (station : s.loader.station = .unsynced) : s.Silent :=
  row.silent (by simp [station])

theorem goodFramesAfter_le {count clocks : Nat} (h : count ≤ 63) (before : goodFramesAfter count clocks ≠ 64) :
    goodFramesAfter count clocks ≤ 63 := by
  unfold goodFramesAfter at *
  split
  next counted => rw [if_pos counted] at before; omega
  next => omega

/-- The loader in a load goes on, in the row of LOADING. -/
theorem State.StationRow.loads (row : s.StationRow) (loading : s.loader.station = .loading)
    (station : t.loader.station = .loading) (fault : t.loader.faultLow = s.loader.faultLow)
    (step : t.loader.loadStep ≠ .idle) (spi : t.loader.spi.isSome = true) (highway : t.highway = s.highway)
    (adoption : t.adoption = s.adoption) (contexts : t.contexts = s.contexts) : t.StationRow := by
  obtain ⟨rests, silent, free⟩ := row.off (by simp [loading]) (by simp [loading])
  have pin := row.faultPin
  refine .of_off (by simp [station]) (by simp [station]) ?_ (by simp [station, step]) (by simp [station, spi])
    (highway ▸ rests) ?_ (contexts ▸ free) (fun _ => adoption ▸ row.numbered loading)
  · rw [fault, station]
    simpa [loading] using pin
  · unfold State.Silent
    rw [highway, adoption]
    exact silent

/-- The end of a load: UNSYNCED with a valid profile, LISTEN_ONLY without (R163). -/
theorem State.StationRow.endLoad (row : s.StationRow) (loading : s.loader.station = .loading)
    (p : Vector (Option Profile) 16) (q : Vector (Option (List Phase)) 8) : (s.endLoad p q).StationRow := by
  obtain ⟨rests, silent, free⟩ := row.off (by simp [loading]) (by simp [loading])
  unfold State.endLoad
  split
  next valid =>
    refine .of_unsynced rfl ⟨rfl, rfl, rfl⟩ ⟨0, rfl, by decide⟩ (Nat.zero_le _) silent (fun i c hc => ?_)
      ⟨row.numbered loading, ?_⟩
    · have hc : s.contexts[i] = .live c := hc
      simp [free i] at hc
    · obtain ⟨x, member, some⟩ := List.any_eq_true.mp valid
      obtain ⟨k, hk, rfl⟩ := List.getElem_of_mem member
      exact ⟨⟨k, by simpa using hk⟩, by simpa using some⟩
  next => exact .of_off (by simp) (by simp) (by simp) (by simp) (by simp) rests silent free (by simp)

theorem State.StationMove.stationRow (m : s.StationMove t) (row : s.StationRow) : t.StationRow := by
  cases m with
  | nothing => exact row
  | strapsRead bits station =>
    obtain ⟨rests, silent, free⟩ := row.off (by simp [station]) (by simp [station])
    have fault := row.faultPin
    exact .of_off (by simp [State.startRead]) (by simp [State.startRead]) (by simpa [State.startRead, station] using fault)
      (by simp [State.startRead]) (by simp [State.startRead]) rests silent free fun _ => rfl
  | strapsFailed station =>
    obtain ⟨rests, silent, free⟩ := row.off (by simp [station]) (by simp [station])
    have loading := row.loading
    have spi := row.spi
    exact .of_off (by simp) (by simp) (by simp) (by simpa [station] using loading) (by simpa [station] using spi) rests
      silent free (by simp)
  | readOn step address count loading next =>
    have station := row.loading.mp loading
    exact row.loads station station rfl next rfl rfl rfl rfl
  | loadFailed loading => exact row.endLoad (row.loading.mp loading) _ _
  | loaded table header bytes step => exact row.endLoad (row.loading.mp (by simp [step])) _ _
  | markCounted clocks station before =>
    exact row.unsynced_kept station rfl ⟨0, rfl, by decide⟩ (goodFramesAfter_le (row.goodUnsynced station) before)
      ⟨rfl, rfl, rfl, (row.silent_of_unsynced station).2.2.2⟩ rfl rfl
  | markSynced station =>
    exact .of_active rfl (row.rested (.inl station)) ⟨0, rfl, by decide⟩ rfl (row.served (.inl station))
  | markFollowed station => exact row.active_kept station rfl ⟨0, rfl, by decide⟩ rfl rfl
  | markMissed count h =>
    rcases h with ⟨station, rfl⟩ | ⟨station, rfl⟩
    · exact row.unsynced_kept station rfl (row.watching (.inl station)) (Nat.zero_le _)
        ⟨rfl, rfl, rfl, (row.silent_of_unsynced station).2.2.2⟩ rfl rfl
    · exact row.active_congr station rfl rfl rfl rfl
  | headerSeen lane follows =>
    rcases follows with station | station
    · exact row.unsynced_kept station rfl (row.watching (.inl station)) (row.goodUnsynced station)
        (row.silent_of_unsynced station) rfl rfl
    · exact row.active_congr station rfl rfl rfl rfl
  | periodCounted t running before =>
    rcases row.watchRuns.mp (by simp [running]) with station | station
    · exact row.unsynced_kept station rfl ⟨t + 1, rfl, before⟩ (row.goodUnsynced station)
        (row.silent_of_unsynced station) rfl rfl
    · exact row.active_kept station rfl ⟨t + 1, rfl, before⟩ rfl rfl
  | watchExpired station =>
    exact row.unsynced_kept station rfl ⟨0, rfl, by decide⟩ (Nat.zero_le _) (row.silent_of_unsynced station) rfl rfl
  | bidMade lane on => exact row.active_congr (s.onHighway_iff.mp on).1 rfl rfl rfl rfl
  | bidEnded on => exact row.active_congr (s.onHighway_iff.mp on).1 rfl rfl rfl rfl
  | entryCleared lane on => exact row.active_congr (s.onHighway_iff.mp on).1 rfl rfl rfl rfl
  | bidEndedEntryCleared lane on => exact row.active_congr (s.onHighway_iff.mp on).1 rfl rfl rfl rfl
  | undriven =>
    by_cases active : s.loader.station = .active
    · exact row.active_congr active rfl rfl rfl rfl
    · have silent : s.Silent := row.silent active
      have undriven : s.withHighway { s.highway with upstreamHalf := none } = s := by
        obtain ⟨none, -⟩ := silent
        rw [← none]
        rfl
      rwa [undriven]

/-- Settles O58: each move of the station ends in the row of the state it enters, and a move of the contexts happens in
ACTIVE, but for an entry of a RELEASING context, which may be completed in UNSYNCED too. -/
theorem stationStateRowsHold : Obligations.StationStateRowsHold := fun _ _ row =>
  stationRow_closed.step row.queue fun q m => m.stationRow (row.queue q)

end Rows

end Sys2Proof.Machine
end

section
/-! Profiles, schedules and cursors: what every step keeps (R93, R95, R105, R161, R162). -/

namespace Sys2Proof.Machine

/-! ### What the loader installs -/

/-- A profile of a table of schedules: within its ranges, with thresholds of 32 bits, on a schedule of 1..8 phases. -/
def Profile.Checked (schedules : Vector (Option (List Phase)) 8) (p : Profile) : Prop :=
  p.inRange = true ∧ (p.tOn < 2 ^ 32 ∧ p.tOff < 2 ^ 32 ∧ p.tConv < 2 ^ 32 ∧ p.tDiv < 2 ^ 32) ∧
    ∃ phases, schedules[p.schedule] = some phases ∧ 1 ≤ phases.length ∧ phases.length ≤ 8

/-- The tables of a loader, and the schedules that a load in progress has read. -/
def Loader.Checked (l : Loader) : Prop :=
  (∀ (k : Fin 16) (p : Profile), l.profiles[k] = some p → p.Checked l.schedules) ∧ l.loadStep.Checked

theorem State.profilesSound_iff (s : State) : s.ProfilesSound ↔ s.loader.Checked ∧
    ∀ (i : CtxNum) (c : Call), s.contexts[i].call? = some c → s.loader.profiles[c.profile] = some c.settings := by
  constructor
  · intro h
    exact ⟨⟨fun k p hp => ⟨h.inRange k p hp, h.thresholds k p hp, h.scheduled k p hp⟩, h.loading⟩, h.settings⟩
  · rintro ⟨⟨profiles, loading⟩, settings⟩
    exact ⟨fun k p hp => (profiles k p hp).1, fun k p hp => (profiles k p hp).2.1, fun k p hp => (profiles k p hp).2.2,
      settings, loading⟩

theorem byteAt_lt (b : List Byte) (o : Nat) : byteAt b o < 2 ^ 8 := BitVec.isLt _

theorem twoBytesAt_lt (b : List Byte) (o : Nat) : twoBytesAt b o < 2 ^ 16 := by
  have high := byteAt_lt b o
  have low := byteAt_lt b (o + 1)
  unfold twoBytesAt
  omega

theorem fourBytesAt_lt (b : List Byte) (o : Nat) : fourBytesAt b o < 2 ^ 32 := by
  have high := twoBytesAt_lt b o
  have third := byteAt_lt b (o + 2)
  have low := byteAt_lt b (o + 3)
  unfold fourBytesAt threeBytesAt
  omega

theorem profileAt_checked {table : Vector (Option (List Phase)) 8} {header : TableHeader}
    (schedules : (LoadStep.profileTable table header).Checked) {b : List Byte} {o : Nat} {p : Profile}
    (valid : profileAt table b o = some p) : p.Checked table := by
  obtain ⟨rate, gate, report, schedule, -, -, -, index, inRange, rfl⟩ := profileAt_eq_some_iff.mp valid
  obtain ⟨-, some⟩ := validScheduleIndex_eq_some_iff.mp index
  obtain ⟨phases, present⟩ := Option.isSome_iff_exists.mp some
  exact ⟨inRange, ⟨fourBytesAt_lt .., fourBytesAt_lt .., fourBytesAt_lt .., fourBytesAt_lt ..⟩, phases, present,
    schedules table header schedule phases rfl present⟩

theorem profileTableOf_get (table : Vector (Option (List Phase)) 8) (b : List Byte) (count : Nat) (k : Fin 16) :
    (profileTableOf table b count)[k] = if k.val < count then profileAt table b (32 * k.val) else none := by
  simp [profileTableOf]

theorem LoadStep.checked_idle : LoadStep.idle.Checked := fun _ _ _ _ h => nomatch h

theorem State.endLoad_loader (s : State) (p : Vector (Option Profile) 16) (q : Vector (Option (List Phase)) 8) :
    (s.endLoad p q).loader.profiles = p ∧ (s.endLoad p q).loader.schedules = q ∧
    (s.endLoad p q).loader.loadStep = .idle ∧ (s.endLoad p q).loader.spi = none := by
  unfold State.endLoad
  split <;> exact ⟨rfl, rfl, rfl, rfl⟩

theorem State.endLoad_checked (s : State) {p : Vector (Option Profile) 16} {q : Vector (Option (List Phase)) 8}
    (h : ∀ (k : Fin 16) (x : Profile), p[k] = some x → x.Checked q) : (s.endLoad p q).loader.Checked := by
  obtain ⟨profiles, schedules, step, -⟩ := s.endLoad_loader p q
  unfold Loader.Checked
  rw [profiles, schedules, step]
  exact ⟨h, LoadStep.checked_idle⟩

/-! ### What a move does to the tables -/

section Tables

variable {s t : State}

/-- The tables of `t` are checked, and are those of `s` or not in use. -/
structure State.KeepsTables (s t : State) : Prop where
  checked : t.loader.Checked
  same : (t.loader.profiles = s.loader.profiles ∧ t.loader.schedules = s.loader.schedules) ∨
    ∀ i : CtxNum, t.contexts[i] = .free

theorem loader_closed (l : Loader) : OutcomeClosed fun s => s.loader = l where
  changed h _ _ := h
  granted h _ _ _ _ := h
  skipped h _ _ := h
  waitLeft h _ _ _ := h
  pagesReturned h _ _ _ := h
  grantedAtOnce h _ _ _ _ _ _ := h
  waited h _ _ _ _ := h
  redelayed h _ _ _ _ := h
  sampled _ _ _ h _ := h

theorem State.releaseOwner_fields (s : State) (lane : Lane) : (s.releaseOwner lane).loader = s.loader ∧
    (s.releaseOwner lane).highway = s.highway ∧ (s.releaseOwner lane).engine = s.engine ∧
    (s.releaseOwner lane).pending = s.pending ∧ (s.releaseOwner lane).history.cells = s.history.cells := by
  unfold State.releaseOwner
  split
  · exact s.releaseContext_fields _
  · exact ⟨rfl, rfl, rfl, rfl, rfl⟩

theorem State.arrive_loader (s : State) (i : CtxNum) (c : Call) (e : Entry) : (s.arrive i c e).loader = s.loader := by
  unfold State.arrive
  split <;> simp

/-- A move of the contexts changes at most the station state of the loader, but for a reset. -/
theorem State.ContextMove.loader (m : s.ContextMove t) :
    t = s.underReset ∨ ∃ station, t.loader = { s.loader with station := station } := by
  have same (h : t.loader = s.loader) : ∃ station, t.loader = { s.loader with station := station } :=
    ⟨s.loader.station, h⟩
  cases m with
  | reset => exact .inl rfl
  | lost => exact .inr ⟨.unsynced, by rw [State.loseHighway_eq, State.withLoader_loader]⟩
  | won b => exact .inr (same (s.winRound_row b).1)
  | arrived lane i c e => exact .inr (same (s.arrive_loader i c e))
  | released lane entry => exact .inr (same (s.releaseOwner_fields lane).1)
  | written => exact .inr (same rfl)
  | discarded => exact .inr (same (by simp))
  | vanished => exact .inr (same (by simp))
  | completed j c u job live outcome =>
    exact .inr (same (by
      rw [State.takeNext_loader]
      exact (loader_closed s.loader).outcome (s := s.endJob) rfl live outcome))

theorem State.ContextMove.keepsTables (m : s.ContextMove t) (checked : s.loader.Checked) : s.KeepsTables t := by
  rcases m.loader with rfl | ⟨station, h⟩
  · exact ⟨⟨fun k p hp => by simp [State.underReset, Loader.reset] at hp, LoadStep.checked_idle⟩,
      .inr fun i => by simp [State.underReset]⟩
  · exact ⟨by rw [h]; exact checked, .inl (by rw [h]; exact ⟨rfl, rfl⟩)⟩

theorem State.StationMove.keepsTables (m : s.StationMove t) (row : s.StationRow) (checked : s.loader.Checked) :
    s.KeepsTables t := by
  have ended (p q) (loading : s.loader.loadStep ≠ .idle) (i : CtxNum) : (s.endLoad p q).contexts[i] = .free := by
    have station := row.loading.mp loading
    rw [(s.endLoad_frame p q).1]
    exact row.free (by simp [station]) (by simp [station]) i
  cases m with
  | readOn step address count loading next valid => exact ⟨⟨checked.1, valid⟩, .inl ⟨rfl, rfl⟩⟩
  | loadFailed loading => exact ⟨s.endLoad_checked (fun k x hx => by simp at hx), .inr (ended _ _ loading)⟩
  | loaded table header bytes step =>
    refine ⟨s.endLoad_checked fun k x hx => ?_, .inr (ended _ _ (by simp [step]))⟩
    rw [profileTableOf_get] at hx
    exact profileAt_checked (step ▸ checked.2) (Option.ite_none_right_eq_some.mp hx).2
  | strapsRead => exact ⟨⟨checked.1, fun _ _ _ _ h => nomatch h⟩, .inl ⟨rfl, rfl⟩⟩
  | _ => exact ⟨checked, .inl ⟨rfl, rfl⟩⟩

theorem step_keepsTables (row : s.StationRow) (checked : s.loader.Checked) (e : step s = .next t) : s.KeepsTables t := by
  obtain ⟨q, m | m⟩ := step_moves e
  · have kept := m.keepsTables (row.queue q) checked
    exact ⟨kept.checked, kept.same⟩
  · have kept := m.keepsTables checked
    exact ⟨kept.checked, kept.same⟩

/-- What the calls have under the tables of `s` they have under those of `t`. -/
theorem State.KeepsTables.transfer (h : s.KeepsTables t) {R : Vector (Option Profile) 16 →
    Vector (Option (List Phase)) 8 → Call → Prop}
    (calls : ∀ (i : CtxNum) (c : Call), t.contexts[i].call? = some c → R s.loader.profiles s.loader.schedules c)
    (i : CtxNum) (c : Call) (hc : t.contexts[i].call? = some c) : R t.loader.profiles t.loader.schedules c := by
  rcases h.same with ⟨profiles, schedules⟩ | free
  · rw [profiles, schedules]
    exact calls i c hc
  · simp [free i, Context.call?] at hc

end Tables

/-! ### Calls under their tables (R95, R105) -/

/-- A call keeps the values of the profile it names. -/
def Call.OnProfile (profiles : Vector (Option Profile) 16) (c : Call) : Prop := profiles[c.profile] = some c.settings

theorem onProfile_closed (profiles : Vector (Option Profile) 16) : CallClosed (Call.OnProfile profiles) where
  queued _ _ _ _ _ _ h := h
  latched c x h := by simpa [Call.OnProfile] using h
  frozen _ _ h := h
  zeroed _ h := h
  imported c part _ _ _ h := by cases part <;> exact h
  exported _ _ _ _ _ _ h := h
  exportEnded _ h := h
  segmentWritten _ _ _ _ h := h
  restarted _ _ _ h := h
  cleared _ _ h := h

/-- A cursor stands in its schedule. -/
def Call.CursorIn (schedules : Vector (Option (List Phase)) 8) (c : Call) : Prop :=
  ∃ phases, schedules[c.settings.schedule] = some phases ∧ c.phase < phases.length

theorem cursorIn_closed (schedules : Vector (Option (List Phase)) 8) : CallClosed (Call.CursorIn schedules) where
  queued _ _ _ _ _ _ h := h
  latched c x h := by simpa [Call.CursorIn] using h
  frozen _ _ h := h
  zeroed _ h := h
  imported c part _ _ _ h := by cases part <;> exact h
  exported _ _ _ _ _ _ h := h
  exportEnded _ h := h
  segmentWritten _ _ _ _ h := h
  restarted _ _ _ h := h.imp fun _ h => ⟨h.1, Nat.zero_lt_of_lt h.2⟩
  cleared _ _ h := h

/-- Stage 11 leaves a phase only for a later one of the schedule (R97). -/
theorem Progress.schedule_phase_lt {p : Progress} (ph : Phase) {n : Nat} (h : p.call.phase < n) :
    (p.schedule ph n).call.phase < n := by
  unfold Progress.schedule
  dsimp only
  repeat' split
  all_goals assumption

/-- The current phase of a call is the one its cursor names, of as many as its schedule has (R94). -/
theorem State.currentPhase_eq_some {s : State} {c : Call} {ph : Phase} {n : Nat}
    (h : s.currentPhase c = some (ph, n)) : ∃ phases, s.loader.schedules[c.settings.schedule] = some phases ∧
      phases[c.phase]? = some ph ∧ phases.length = n := by
  unfold State.currentPhase at h
  split at h
  next phases present =>
    obtain ⟨x, hx, e⟩ := Option.map_eq_some_iff.mp h
    obtain ⟨rfl, rfl⟩ := Prod.mk.inj e
    exact ⟨phases, present, hx, rfl⟩
  next => cases h

theorem cursorIn_sampled {s : State} {c : Call} {ph : Phase} {n : Nat} (current : s.currentPhase c = some (ph, n))
    (e : SampleEntry) : (sampleStages ph n e c s.history.cells).complete.CursorIn s.loader.schedules := by
  obtain ⟨phases, present, named, rfl⟩ := State.currentPhase_eq_some current
  obtain ⟨bound, -⟩ := List.getElem?_eq_some_iff.mp named
  have kept : (sampleStages ph phases.length e c s.history.cells).call.settings = c.settings :=
    (sampleStages_sameOwner ..).settings
  refine ⟨phases, by simpa [Progress.complete, kept] using present, ?_⟩
  rw [Progress.complete, Call.latchAll_phase, sampleStages_call, laterStages_call]
  refine Progress.schedule_phase_lt ph ?_
  rw [historyStages_eq]
  exact bound

/-- Settles O59: the tables change at the end of a load alone, when every context is FREE, and what is installed is checked;
a context is adopted with the values of a profile of the table and its cursor at phase 0. -/
theorem contextsFollowTheirTables : Obligations.ContextsFollowTheirTables := by
  intro s t row profiles e
  obtain ⟨checked, settings⟩ := s.profilesSound_iff.mp profiles
  have tables := step_keepsTables row checked e
  constructor
  · refine t.profilesSound_iff.mpr ⟨tables.checked, tables.transfer (R := fun p _ c => c.OnProfile p) ?_⟩
    exact (onProfile_closed s.loader.profiles).step (fun _ _ _ hp => hp) (fun ph n e c cells hc => by
      have owner := sampleStages_sameOwner ph n e c cells
      simpa [Call.OnProfile, Progress.complete, owner.profile, owner.settings] using hc) settings e
  · intro cursors
    refine tables.transfer (R := fun _ q c => c.CursorIn q) (State.allContexts_iff.mp ?_)
    exact State.AllContexts.step (cursorIn_closed s.loader.schedules).contexts
      (fun _ n p hp => (checked.1 n p hp).2.2.imp fun _ h => ⟨h.1, h.2.1⟩)
      (fun _ e _ _ _ _ current _ => cursorIn_sampled current e) (State.allContexts_iff.mpr cursors) e

end Sys2Proof.Machine
end

section
/-! The records of the lanes, read back from their bytes (R133, R134, R166 to R168). -/

namespace Sys2Proof.Machine

/-! ### Downstream halves (R134, R166) -/

@[simp] theorem recordKind_headByte (kind low : BitVec 4) : recordKind (headByte kind low) = kind := by
  ext n hn
  rw [recordKind, headByte, BitVec.getElem_extractLsb']
  exact (BitVec.getLsbD_append ..).trans (by simp [BitVec.getLsbD_eq_getElem hn])

@[simp] theorem lowNibble_headByte (kind low : BitVec 4) : lowNibble (headByte kind low) = low := by
  ext n hn
  rw [lowNibble, headByte, BitVec.getElem_extractLsb']
  exact (BitVec.getLsbD_append ..).trans (by simp [hn])

@[simp] theorem halfOf_zero (byte0 : Byte) (bytes : Vector Byte 17) : (halfOf byte0 bytes)[0] = byte0 := rfl

@[simp] theorem payloadOf_halfOf (byte0 : Byte) (bytes : Vector Byte 17) : payloadOf (halfOf byte0 bytes) = bytes := by
  ext n hn
  simp only [payloadOf, halfOf]
  interval_cases n <;> rfl

theorem commandOfHalf_halfOf (lane : Lane) (kind low : BitVec 4) (bytes : Vector Byte 17) :
    commandOfHalf lane (halfOf (headByte kind low) bytes) =
      if kind = 1 then .announce lane low
      else if kind = 2 then .sampleArrival lane low bytes
      else if kind = 3 then .controlArrival lane low bytes
      else if kind = 4 then .release lane
      else .idleArrival lane kind := by
  simp only [commandOfHalf, halfOf_zero, recordKind_headByte, lowNibble_headByte, payloadOf_halfOf]

/-- A kind that names no downstream record is none of the four codes. -/
theorem namesDownstreamRecord_eq_false {kind : BitVec 4} (h : namesDownstreamRecord kind = false) :
    kind ≠ 1 ∧ kind ≠ 2 ∧ kind ≠ 3 ∧ kind ≠ 4 := by
  refine ⟨?_, ?_, ?_, ?_⟩ <;> rintro rfl <;> cases h

/-- Settles O3: each kind of half carries its own code, and an ignored one none of the four. -/
theorem downstreamHalfReadsBack : Obligations.DownstreamHalfReadsBack := by
  intro c lane half wellFormed raised
  cases c with
  | idleArrival l kind =>
    obtain ⟨rfl, rfl⟩ := Prod.mk.inj (Option.some.inj raised)
    obtain ⟨h1, h2, h3, h4⟩ := namesDownstreamRecord_eq_false (kind := kind) (by simpa [Instr.wellFormed] using wellFormed)
    rw [commandOfHalf_halfOf, if_neg h1, if_neg h2, if_neg h3, if_neg h4]
  | announce | release | sampleArrival | controlArrival =>
    obtain ⟨rfl, rfl⟩ := Prod.mk.inj (Option.some.inj raised)
    exact commandOfHalf_halfOf ..
  | _ => cases raised

/-! ### Words split into bytes (R164) -/

theorem append_byteOf_16 (v : BitVec 16) : byteOf 1 v ++ byteOf 0 v = v := by
  ext n hn
  simp only [byteOf, BitVec.getElem_append, BitVec.getElem_extractLsb']
  split
  · simp [BitVec.getLsbD_eq_getElem hn]
  · simp [show 8 + (n - 8) = n by omega, BitVec.getLsbD_eq_getElem hn]

theorem append_byteOf_24 (v : BitVec 24) : byteOf 2 v ++ byteOf 1 v ++ byteOf 0 v = v := by
  ext n hn
  simp only [byteOf, BitVec.getElem_append, BitVec.getElem_extractLsb']
  split
  · simp [BitVec.getLsbD_eq_getElem hn]
  split
  · simp [show 8 + (n - 8) = n by omega, BitVec.getLsbD_eq_getElem hn]
  · simp [show 16 + (n - 8 - 8) = n by omega, BitVec.getLsbD_eq_getElem hn]

theorem append_byteOf_32 (v : BitVec 32) : byteOf 3 v ++ byteOf 2 v ++ byteOf 1 v ++ byteOf 0 v = v := by
  ext n hn
  simp only [byteOf, BitVec.getElem_append, BitVec.getElem_extractLsb']
  split
  · simp [BitVec.getLsbD_eq_getElem hn]
  split
  · simp [show 8 + (n - 8) = n by omega, BitVec.getLsbD_eq_getElem hn]
  split
  · simp [show 16 + (n - 8 - 8) = n by omega, BitVec.getLsbD_eq_getElem hn]
  · simp [show 24 + (n - 8 - 8 - 8) = n by omega, BitVec.getLsbD_eq_getElem hn]

/-- The 19 bits of a condition set fill two bytes and three bits of a third. -/
theorem extract_append_byteOf_19 (v : BitVec 19) : (byteOf 2 v ++ byteOf 1 v ++ byteOf 0 v).extractLsb' 0 19 = v := by
  ext n hn
  simp only [byteOf, BitVec.getElem_extractLsb', BitVec.getLsbD_append, BitVec.getLsbD_extractLsb']
  split
  next h => simp [show n < 8 by omega, BitVec.getLsbD_eq_getElem hn]
  split
  next h => simp [show 8 + (n - 8) = n by omega, show n - 8 < 8 by omega, BitVec.getLsbD_eq_getElem hn]
  next h => simp [show 16 + (n - 8 - 8) = n by omega, show n - 8 - 8 < 8 by omega, BitVec.getLsbD_eq_getElem hn]

/-! ### Upstream records (R168) -/

@[simp] theorem sampleFrom_byteOf (x : Sample) :
    sampleFrom (byteOf 1 x.i) (byteOf 0 x.i) (byteOf 1 x.q) (byteOf 0 x.q) = x := by
  simp only [sampleFrom, append_byteOf_16]

@[simp] theorem tapFrom_byteOf (x : Tap) : tapFrom (byteOf 2 x.i) (byteOf 1 x.i) (byteOf 0 x.i) (byteOf 2 x.q)
    (byteOf 1 x.q) (byteOf 0 x.q) = x := by
  simp only [tapFrom, append_byteOf_24]

theorem stateByte_signal (signal : SignalState) (error : ErrorState) :
    (if (stateByte signal error).getLsbD 0 then SignalState.present else .absent) = signal := by
  cases signal <;> cases error <;> rfl

theorem stateByte_error (signal : SignalState) (error : ErrorState) :
    (if (stateByte signal error).getLsbD 1 then ErrorState.settled else .unsettled) = error := by
  cases signal <;> cases error <;> rfl

@[simp] theorem sectionOfCode_sectionCode (part : TapSection) : sectionOfCode (sectionCode part) = some part := by
  cases part <;> rfl

section Kinds

variable {b : Vector Byte 18}

theorem readUpstream_idle (kind : (b[0].extractLsb' 4 4 : BitVec 4) = 0) : readUpstream b = some (.idle b[1]) := by
  simp [readUpstream, kind]

theorem readUpstream_result (kind : (b[0].extractLsb' 4 4 : BitVec 4) = 1) : readUpstream b = some (.result b[1]
    { stamp := b[2] ++ b[3], soft := sampleFrom b[4] b[5] b[6] b[7], decision := sampleFrom b[8] b[9] b[10] b[11]
      error := sampleFrom b[12] b[13] b[14] b[15] }) := by
  simp [readUpstream, kind]

theorem readUpstream_status (kind : (b[0].extractLsb' 4 4 : BitVec 4) = 2) : readUpstream b = some (.status b[1]
    (b[2] ++ b[3]) ((b[4] ++ b[5] ++ b[6]).extractLsb' 0 19) (if b[7].getLsbD 0 then .present else .absent)
    (if b[7].getLsbD 1 then .settled else .unsettled) (b[8] ++ b[9] ++ b[10] ++ b[11])
    (b[12] ++ b[13] ++ b[14] ++ b[15])) := by
  simp [readUpstream, kind]

theorem readUpstream_segment (kind : (b[0].extractLsb' 4 4 : BitVec 4) = 3) : readUpstream b =
    (sectionOfCode b[4]).map fun part => .segment b[1] (b[0].getLsbD 0) (b[2] ++ b[3]) part b[5]
      (tapFrom b[6] b[7] b[8] b[9] b[10] b[11]) (tapFrom b[12] b[13] b[14] b[15] b[16] b[17]) := by
  simp [readUpstream, kind]

end Kinds

/-- The record kind of each record. -/
def UpstreamRecord.kind : UpstreamRecord → BitVec 4
  | .idle _ => 0
  | .result .. => 1
  | .status .. => 2
  | .segment .. => 3

theorem UpstreamRecord.bytes_head (r : UpstreamRecord) : (r.bytes[0].extractLsb' 4 4 : BitVec 4) = r.kind := by
  have head (x : Byte) (l : List Byte) (h : (x :: l).length = 18) :
      (⟨(x :: l).toArray, h⟩ : Vector Byte 18)[0] = x := rfl
  cases r with
  | segment _ last => cases last <;> · rw [bytes, head]; rfl
  | _ => rw [bytes, head]; rfl

theorem readUpstream_bytes (r : UpstreamRecord) : readUpstream r.bytes = some r := by
  cases r with
  | idle code => exact readUpstream_idle (UpstreamRecord.bytes_head _)
  | result code r =>
    rw [readUpstream_result (UpstreamRecord.bytes_head _)]
    simp only [UpstreamRecord.bytes, Vector.getElem_mk, List.getElem_toArray, List.getElem_cons_succ,
      List.getElem_cons_zero, sampleFrom_byteOf, append_byteOf_16]
  | status code stamp conditions signal error p q =>
    rw [readUpstream_status (UpstreamRecord.bytes_head _)]
    simp only [UpstreamRecord.bytes, Vector.getElem_mk, List.getElem_toArray, List.getElem_cons_succ,
      List.getElem_cons_zero, append_byteOf_16, extract_append_byteOf_19, append_byteOf_32]
    exact congrArg₂ (fun x y => some (UpstreamRecord.status code stamp conditions x y p q)) (stateByte_signal signal error)
      (stateByte_error signal error)
  | segment code last stamp part number first second =>
    rw [readUpstream_segment (UpstreamRecord.bytes_head _)]
    simp only [UpstreamRecord.bytes, Vector.getElem_mk, List.getElem_toArray, List.getElem_cons_succ,
      List.getElem_cons_zero, append_byteOf_16, tapFrom_byteOf, sectionOfCode_sectionCode, Option.map_some]
    cases last <;> rfl

/-- Settles O4: by the kind of the record; the kind 15 that an undriven half reads is none of the four. -/
theorem upstreamRecordReadsBack : Obligations.UpstreamRecordReadsBack := ⟨readUpstream_bytes, by decide⟩

end Sys2Proof.Machine
end

section
/-! Reset, the straps, and the load of the parameter image (R146, R155 to R163, R170). -/

namespace Sys2Proof.Machine

/-! ### Reset (R156) -/

/-- Settles O6: the values are those of the blocks' reset definitions, block by block. -/
theorem resetPinGivesResetValues : Obligations.ResetPinGivesResetValues := by
  intro s
  refine ⟨s.underReset, rfl, ?_⟩
  simp only [State.underReset, Loader.reset, Highway.reset, Adoption.reset, Engine.reset, History.reset,
    Fin.getElem_fin, Vector.getElem_replicate, implies_true, and_self]

/-- No context holds a call right after reset. -/
theorem State.reset_contexts (i : CtxNum) : State.reset.contexts[i] = .free := by simp [State.reset]

/-- A law about calls holds right after reset. -/
theorem State.reset_call {Q : CtxNum → Call → Prop} (i : CtxNum) (c : Call)
    (h : State.reset.contexts[i].call? = some c) : Q i c := by
  rw [State.reset_contexts] at h
  cases h

theorem State.reset_not_live (i : CtxNum) (c : Call) : State.reset.contexts[i] ≠ .live c := by
  rw [State.reset_contexts]
  nofun

theorem State.reset_not_releasing (i : CtxNum) (c : Call) : State.reset.contexts[i] ≠ .releasing c := by
  rw [State.reset_contexts]
  nofun

theorem State.reset_owner (k : Lane) : State.reset.owner k = none :=
  State.owner_eq_none.mpr fun i c h => absurd h (State.reset_not_live i c)

theorem State.reset_loadAccounted : State.reset.LoadAccounted := by
  refine ⟨?_, fun _ h => (nomatch h)⟩
  rw [Finset.sum_eq_zero fun i _ => by rw [State.reset_contexts]; rfl]
  rfl

theorem State.reset_engineConsistent : State.reset.EngineConsistent :=
  ⟨fun _ h => (nomatch h), fun i c h => absurd h (State.reset_not_releasing i c), fun _ k => by
    simp [State.candidate, State.reset_owner]⟩

theorem State.reset_profilesSound : State.reset.ProfilesSound where
  inRange k p h := by simp [State.reset, Loader.reset] at h
  thresholds k p h := by simp [State.reset, Loader.reset] at h
  scheduled k p h := by simp [State.reset, Loader.reset] at h
  settings := State.reset_call
  loading _ _ _ _ h := nomatch h

/-- Settles O60: no context holds a call and no table entry is present, so that every law about them is empty; the pages
are all free, and so is the load. -/
theorem resetMeetsEveryLaw : Obligations.ResetMeetsEveryLaw where
  pages := pageCount_reset State.reset
  waiting := ⟨List.nodup_nil, fun i => by simp [State.reset, History.reset],
    fun i c h => absurd h (State.reset_not_releasing i c)⟩
  load := State.reset_loadAccounted
  lanes := ⟨fun i _ c _ h => absurd h (State.reset_not_live i c), fun k _ _ => State.reset_owner k,
    fun b _ => State.reset_owner b.lane⟩
  engine := State.reset_engineConsistent
  queues := ⟨fun i c h => absurd h (State.reset_not_live i c), fun i c h => absurd h (State.reset_not_releasing i c)⟩
  hold := State.reset_call
  history := cellsWf_nil
  row := State.reset.underReset_row
  profiles := State.reset_profilesSound
  cursors := State.reset_call
  shapes := State.reset_call
  far := ⟨State.reset_call, fun _ _ h => (nomatch h)⟩
  exports i c _ h := State.reset_call (Q := fun _ _ => _) i c h
  powers := State.reset_call

/-! ### The straps (R157) -/

theorem strapParityGood_iff (b : BitVec 4) (p : Bool) : strapParityGood b p = true ↔
    ((b.getLsbD 3).toNat + (b.getLsbD 2).toNat + (b.getLsbD 1).toNat + (b.getLsbD 0).toNat + p.toNat) % 2 = 1 := by
  simp only [strapParityGood]
  generalize b.getLsbD 3 = x3, b.getLsbD 2 = x2, b.getLsbD 1 = x1, b.getLsbD 0 = x0
  revert x3 x2 x1 x0 p
  decide

/-- Settles O7: the parity of the straps is the parity of the sum of their levels. -/
theorem strapParityDecidesTheLoad : Obligations.StrapParityDecidesTheLoad := by
  intro s b p station
  constructor
  · intro odd
    simp only [exec, execResetPinReleased, if_pos station, if_pos ((strapParityGood_iff b p).mpr odd)]
    rfl
  · intro even
    have bad : ¬strapParityGood b p = true := by rw [strapParityGood_iff]; omega
    simp only [exec, execResetPinReleased, if_pos station, if_neg bad]
    rfl

/-! ### The signature block (R160) -/

theorem signatureGood_iff (b : Vector Byte 8) : signatureGood b = true ↔
    b[0] = 0x4E ∧ b[1] = 0x58 ∧ b[2] = 0x32 ∧ b[3] = 0x34 ∧ b[4] = 1 ∧ 1 ≤ b[5].toNat ∧ b[5].toNat ≤ 4 := by
  simp only [signatureGood, Bool.and_eq_true, beq_iff_eq, decide_eq_true_eq, and_assoc]

/-- With no profile valid the load ends in LISTEN_ONLY. -/
theorem State.totalFault_eq (s : State) : s.totalFault = { s with loader :=
    { station := .listenOnly, profiles := Vector.replicate 16 none, schedules := Vector.replicate 8 none
      loadStep := .idle, spi := none, faultLow := true } } := rfl

/-- Settles O8. -/
theorem signatureBlockIsChecked : Obligations.SignatureBlockIsChecked := by
  intro s b step
  rw [← signatureGood_iff, ← s.totalFault_eq]
  constructor <;> intro h <;> simp only [exec, execSignatureBlockRead, step, h, if_true]
  · rfl
  · rfl

/-! ### The headers (R159, R160) -/

theorem State.readComplete_of {s : State} {bytes : List Byte} {r : SpiRead} (spi : s.loader.spi = some r)
    (length : bytes.length = r.count) : s.readComplete bytes = true := by
  simp [State.readComplete, spi, length]

theorem headerInUse_eq_some {bytes : List Byte} {kind n : Nat} (inside : n < bytes.length / 8)
    (here : byteAt bytes (8 * n) = kind) (first : ∀ k < n, byteAt bytes (8 * k) ≠ kind) :
    headerInUse bytes kind = some (headerAt bytes n).2 := by
  have found : (List.range (bytes.length / 8)).find? ((fun h : Nat × TableHeader => h.1 == kind) ∘ headerAt bytes) =
      some n := by
    rw [List.find?_range_eq_some]
    exact ⟨by simpa [headerAt] using here, by simpa using inside, fun k hk => by simpa [headerAt] using first k hk⟩
  rw [headerInUse, List.find?_map, found]
  rfl

theorem headerInUse_eq_none {bytes : List Byte} {kind : Nat}
    (absent : ∀ k < bytes.length / 8, byteAt bytes (8 * k) ≠ kind) : headerInUse bytes kind = none := by
  have nowhere : (List.range (bytes.length / 8)).find? ((fun h : Nat × TableHeader => h.1 == kind) ∘ headerAt bytes) =
      none := by
    rw [List.find?_range_eq_none]
    exact fun k hk => by simpa [headerAt] using absent k hk
  rw [headerInUse, List.find?_map, nowhere]
  rfl

/-- The two checks of R160 on the header at a place. -/
theorem headerAt_good_iff (bytes : List Byte) (n : Nat) : (headerAt bytes n).2.good = true ↔
    byteAt bytes (8 * n + 1) = 1 ∧ threeBytesAt bytes (8 * n + 4) + 4 * twoBytesAt bytes (8 * n + 2) ≤ 16777216 := by
  rw [TableHeader.good, Bool.and_eq_true, beq_iff_eq, decide_eq_true_eq]
  rfl

section Headers

variable {s : State} {bytes : List Byte} (step : s.loader.loadStep = .headers) (complete : s.readComplete bytes = true)

include step complete

theorem execHeadersRead_of_headers {profiles schedules : TableHeader} (first : headerInUse bytes 1 = some profiles)
    (second : headerInUse bytes 2 = some schedules) : execHeadersRead bytes s =
      if profiles.good && schedules.good then
        .next (s.startRead (.scheduleTable schedules profiles) schedules.pointer (68 * schedules.scheduleCount))
      else .next s.totalFault := by
  simp only [execHeadersRead, step, complete, if_true, first, second]

theorem execHeadersRead_of_missing (missing : headerInUse bytes 1 = none ∨ headerInUse bytes 2 = none) :
    execHeadersRead bytes s = .next s.totalFault := by
  simp only [execHeadersRead, step, complete, if_true]
  rcases missing with h | h
  · simp only [h]
  · cases headerInUse bytes 1 <;> simp only [h]

end Headers

/-- Settles O9: the first header of a kind is the one in use, and none is when no header has the kind. -/
theorem headersAreChecked : Obligations.HeadersAreChecked := by
  intro s bytes r step spi length
  have complete := State.readComplete_of spi length
  refine ⟨fun n m ⟨n_inside, n_kind, n_first⟩ ⟨m_inside, m_kind, m_first⟩ => ?_, fun missing => ?_⟩
  · have read := execHeadersRead_of_headers step complete (headerInUse_eq_some n_inside n_kind n_first)
      (headerInUse_eq_some m_inside m_kind m_first)
    have both := Bool.and_eq_true (headerAt bytes n).2.good (headerAt bytes m).2.good
    rw [headerAt_good_iff, headerAt_good_iff, and_assoc] at both
    rw [← both]
    exact ⟨fun good => read.trans (if_pos good), fun bad => read.trans (if_neg bad)⟩
  · exact execHeadersRead_of_missing step complete (missing.imp headerInUse_eq_none headerInUse_eq_none)

/-! ### The schedule table (R161) -/

theorem allPresent_map_isSome_iff {α : Type} (l : List Nat) (f : Nat → Option α) :
    (allPresent (l.map f)).isSome = true ↔ ∀ i ∈ l, (f i).isSome = true := by
  induction l with
  | nil => simp [allPresent]
  | cons i rest ih => cases h : f i <;> simp [allPresent, h, ih]

/-- The list of what is present holds each value at its place. -/
theorem getElem?_of_allPresent {α : Type} {l : List (Option α)} {xs : List α} (h : allPresent l = some xs) (i : Nat) :
    l[i]? = xs[i]?.map some := by
  induction l generalizing xs i with
  | nil => cases h; rfl
  | cons o rest ih =>
    cases o with
    | none => cases h
    | some a =>
      obtain ⟨ys, hys, rfl⟩ := Option.map_eq_some_iff.mp h
      cases i with
      | zero => rfl
      | succ i => simpa using ih hys i

theorem eqModeOf_isSome_iff (code : Nat) : (eqModeOf code).isSome = true ↔ code ≤ 2 := by
  match code with
  | 0 | 1 | 2 => simp [eqModeOf]
  | _ + 3 => simp [eqModeOf]

/-- The mode codes tell the modes apart. -/
theorem eqModeOf_eq_some {code : Nat} {mode : EqMode} (h : eqModeOf code = some mode) :
    (mode = .off ↔ code = 0) ∧ (mode = .reference ↔ code = 1) := by
  match code with
  | 0 | 1 | 2 => cases h; simp
  | _ + 3 => cases h

/-- The phase that the fields at an offset spell with the mode. -/
def phaseOfFields (bytes : List Byte) (o : Nat) (mode : EqMode) : Phase :=
  { length := twoBytesAt bytes o, se := byteAt bytes (o + 2), sw := byteAt bytes (o + 3), mode := mode
    leak := byteAt bytes (o + 5), farAdapt := (byteAt bytes (o + 6)).testBit 0 }

/-- The checks on a phase's shifts and leak (R161). -/
def PhaseFieldsGood (bytes : List Byte) (o : Nat) : Prop :=
  (byteAt bytes (o + 2) = 0 ∨ (8 ≤ byteAt bytes (o + 2) ∧ byteAt bytes (o + 2) ≤ 24)) ∧
  (byteAt bytes (o + 3) = 0 ∨ (6 ≤ byteAt bytes (o + 3) ∧ byteAt bytes (o + 3) ≤ 24)) ∧
  byteAt bytes (o + 4) ≤ 2 ∧ byteAt bytes (o + 5) ≤ 15

theorem phaseAt_eq_some_iff (bytes : List Byte) (o : Nat) (ph : Phase) : phaseAt bytes o = some ph ↔
    PhaseFieldsGood bytes o ∧ ∃ mode, eqModeOf (byteAt bytes (o + 4)) = some mode ∧ ph = phaseOfFields bytes o mode := by
  have mode_iff := eqModeOf_isSome_iff (byteAt bytes (o + 4))
  unfold phaseAt
  cases h : eqModeOf (byteAt bytes (o + 4)) with
  | none => simp
  | some mode =>
    have inside : byteAt bytes (o + 4) ≤ 2 := mode_iff.mp (by rw [h]; rfl)
    have checks : (validSe (byteAt bytes (o + 2)) && validSw (byteAt bytes (o + 3)) && decide (byteAt bytes (o + 5) ≤ 15)) =
        true ↔ PhaseFieldsGood bytes o := by
      simp [PhaseFieldsGood, validSe, validSw, inside, and_assoc]
    simp only [Option.ite_none_right_eq_some, checks, Option.some.injEq, exists_eq_left', eq_comm (b := ph)]
    rfl

theorem phaseAt_isSome_iff (bytes : List Byte) (o : Nat) :
    (phaseAt bytes o).isSome = true ↔ PhaseFieldsGood bytes o := by
  rw [Option.isSome_iff_exists]
  simp only [phaseAt_eq_some_iff, exists_and_left, and_iff_left_iff_imp]
  rintro ⟨-, -, mode, -⟩
  obtain ⟨m, hm⟩ := Option.isSome_iff_exists.mp ((eqModeOf_isSome_iff _).mpr mode)
  exact ⟨_, m, hm, rfl⟩

theorem isSome_ite_none_iff {α : Type} {p : Prop} [Decidable p] (o : Option α) :
    (if p then o else none).isSome = true ↔ p ∧ o.isSome = true := by
  split <;> simp [*]

theorem scheduleAt_isSome_iff (bytes : List Byte) (o : Nat) : (scheduleAt bytes o).isSome = true ↔
    1 ≤ byteAt bytes o ∧ byteAt bytes o ≤ 8 ∧ ∀ i < byteAt bytes o, PhaseFieldsGood bytes (o + 4 + 8 * i) := by
  simp only [scheduleAt, isSome_ite_none_iff, Bool.and_eq_true, decide_eq_true_eq, allPresent_map_isSome_iff,
    List.mem_range, phaseAt_isSome_iff, and_assoc]

/-- A valid schedule holds its phases as they stand in the image. -/
theorem scheduleAt_getElem? {bytes : List Byte} {o : Nat} {phases : List Phase} (h : scheduleAt bytes o = some phases)
    {i : Nat} {ph : Phase} (hph : phases[i]? = some ph) : phaseAt bytes (o + 4 + 8 * i) = some ph := by
  have stands := getElem?_of_allPresent (Option.ite_none_right_eq_some.mp h).2 i
  rw [hph, List.getElem?_map, Option.map_some] at stands
  obtain ⟨j, hj, e⟩ := Option.map_eq_some_iff.mp stands
  obtain ⟨_, rfl⟩ := List.getElem?_eq_some_iff.mp hj
  simpa using e

/-- Settles O10: the table is the list of what stands at its offsets; a schedule is present exactly when each of its phases
is, and a phase exactly when its fields are good. -/
theorem schedulesAreChecked : Obligations.SchedulesAreChecked := by
  intro s bytes h p r step spi length
  have complete := State.readComplete_of spi length
  refine ⟨scheduleTableOf bytes h.scheduleCount, ?_, fun k => ?_, fun k phases valid => ?_⟩
  · simp only [exec, execScheduleTableRead, step, complete, if_true]
    rfl
  · rw [scheduleTableOf_get, isSome_ite_none_iff, scheduleAt_isSome_iff]
    exact Iff.rfl
  · rw [scheduleTableOf_get] at valid
    obtain ⟨-, valid⟩ := Option.ite_none_right_eq_some.mp valid
    refine ⟨(length_of_scheduleAt valid).1, fun i ph hph => ?_⟩
    obtain ⟨-, mode, hmode, rfl⟩ := (phaseAt_eq_some_iff ..).mp (scheduleAt_getElem? valid hph)
    obtain ⟨off, reference⟩ := eqModeOf_eq_some hmode
    exact ⟨rfl, rfl, rfl, off, reference, rfl, rfl⟩

/-! ### The end of the load (R159, R163) -/

theorem State.endLoad_of_valid (s : State) {p : Vector (Option Profile) 16} (q : Vector (Option (List Phase)) 8)
    {k : Fin 16} (valid : p[k].isSome = true) : s.endLoad p q =
      { s with
        loader := { station := .unsynced, profiles := p, schedules := q, loadStep := .idle, spi := none, faultLow := false }
        highway := { s.highway with goodFrames := 0, watch := some 0, lapsed := false } } := by
  have found : p.toList.any Option.isSome = true := List.any_eq_true.mpr ⟨p[k], by simp, valid⟩
  rw [State.endLoad, if_pos found]
  rfl

theorem State.endLoad_of_none (s : State) {p : Vector (Option Profile) 16} (q : Vector (Option (List Phase)) 8)
    (none : ∀ k : Fin 16, p[k] = none) : s.endLoad p q = { s with loader :=
      { station := .listenOnly, profiles := p, schedules := q, loadStep := .idle, spi := .none, faultLow := true } } := by
  have missing : ¬p.toList.any Option.isSome = true := by
    rw [List.any_eq_true]
    rintro ⟨x, hx, present⟩
    obtain ⟨n, hn, rfl⟩ := List.getElem_of_mem hx
    have absent := none ⟨n, by simpa using hn⟩
    simp_all
  rw [State.endLoad, if_neg missing]
  rfl

/-- Settles O12. -/
theorem loadEndInstallsTheTables : Obligations.LoadEndInstallsTheTables := by
  intro s bytes table h r step spi length
  have complete := State.readComplete_of spi length
  let profiles := profileTableOf table bytes h.profileCount
  obtain ⟨contexts, engine, history, adoption, pending⟩ := s.endLoad_frame profiles table
  obtain ⟨installed, schedules, idle, select⟩ := s.endLoad_loader profiles table
  refine ⟨s.endLoad profiles table, ?_, fun k => ?_, schedules, idle, select, ?_, ?_, adoption, contexts, engine, history,
    pending⟩
  · simp only [exec, execProfileTableRead, step, complete, if_true]
    rfl
  · rw [installed]
    exact profileTableOf_get table bytes h.profileCount k
  · rw [installed]
    rintro ⟨k, valid⟩
    rw [s.endLoad_of_valid table valid]
    exact ⟨rfl, rfl, rfl⟩
  · rw [installed]
    intro none
    rw [s.endLoad_of_none table none]
    exact ⟨rfl, rfl, rfl⟩

end Sys2Proof.Machine
end

section
/-! The highway: the watch, frame marks, headers and highway loss (R10, R74, R130, R131, R139 to R142). -/

namespace Sys2Proof.Machine

/-! ### Steps and the watch (R139) -/

/-- Settles O1. -/
theorem stepRunsFrontCommand : Obligations.StepRunsFrontCommand := fun c rest s pending => by
  simp only [step, pending]

/-- On an empty queue a step is one period of the watch. -/
theorem step_of_empty {s : State} (pending : s.pending = []) : step s = tick s := by
  simp only [step, pending]

/-- Settles O2. -/
theorem watchTimerCountsPeriods : Obligations.WatchTimerCountsPeriods := by
  refine ⟨fun s empty stopped => ?_, fun s t empty running early => ?_, fun s t empty running due => ?_, fun s station => ?_⟩
  · rw [step_of_empty empty]
    simp only [tick, stopped]
  · rw [step_of_empty empty]
    simp only [tick, running]
    rw [if_pos early]
    rfl
  · rw [step_of_empty empty]
    simp only [tick, running]
    rw [if_neg (Nat.not_lt.mpr due)]
    rfl
  · simp only [exec, execWatchTimerExpiry, station]
    rfl

/-! ### Frame marks and headers (R131, R140, R141, R165) -/

theorem goodFramesAfter_eq (count clocks : Nat) :
    goodFramesAfter count clocks = if clocks = 6144 ∧ 1 ≤ count then count + 1 else 1 := by
  simp [goodFramesAfter, Config.frameClocks]

/-- The count reaches 64 exactly by a good frame after 63. -/
theorem goodFramesAfter_eq_64_iff (count clocks : Nat) :
    goodFramesAfter count clocks = 64 ↔ clocks = 6144 ∧ 1 ≤ count ∧ count = 63 := by
  rw [goodFramesAfter_eq]
  split <;> omega

theorem headerFrameNumber_eq (h : Vector Byte 32) : headerFrameNumber h = Fin.ofNat 64 h[0].toNat := by
  ext
  simp [headerFrameNumber]

/-- Settles O13: by the station state; the count of 64 is reached from 63 alone. -/
theorem frameMarksAndHeadersAreFollowed : Obligations.FrameMarksAndHeadersAreFollowed := by
  refine ⟨fun s n station => ?_, fun s n station => ?_, fun s station => ?_, fun s station => ?_,
    fun s h station lapsed => ?_⟩
  · simp only [exec, execFrameMark, station, Config.goodFramesToSync, goodFramesAfter_eq_64_iff,
      ← goodFramesAfter_eq]
    split
    · rfl
    · rw [← station]
      rfl
  · simp only [exec, execFrameMark, station]
    rfl
  · simp only [exec, execMissingFrameMark, station]
    rfl
  · simp only [exec, execMissingFrameMark, station]
    rfl
  · rw [← headerFrameNumber_eq]
    rcases station with station | station <;> simp only [exec, execHeaderComplete, station, lapsed]
    · rfl
    · rfl

/-! ### Highway loss (R10, R74, R139) -/

/-- The load points held and the free load together (R147). -/
def State.totalLoad (s : State) : Nat := s.adoption.freeLoad + ∑ i : CtxNum, s.contexts[i].load

section Load

variable {s t : State}

theorem Context.GrantedFrom.load {a b : Context} (h : Context.GrantedFrom a b) : b.load = a.load := by
  rcases h with rfl | ⟨c, d, pages, rfl, -, rfl⟩ <;> rfl

theorem Context.load_withdrawn (x : Context) : x.withdrawn.load = x.load := by cases x <;> rfl

theorem State.totalLoad_congr (free : t.adoption.freeLoad = s.adoption.freeLoad)
    (load : ∀ i : CtxNum, t.contexts[i].load = s.contexts[i].load) : t.totalLoad = s.totalLoad := by
  rw [State.totalLoad, State.totalLoad, free, Finset.sum_congr rfl fun i _ => load i]

theorem State.totalLoad_becomeFree (s : State) (i : CtxNum) : (s.becomeFree i).totalLoad = s.totalLoad := by
  rcases s.becomeFree_cases i with ⟨c, hc, e⟩ | ⟨-, e⟩
  · rw [e]
    have allocates := State.returnPages_allocates ((s.setContext i .free).withAdoption
      { s.adoption with freeLoad := s.adoption.freeLoad + c.settings.load }) c.far.pages
    rw [State.totalLoad_congr (by rw [allocates.adoption]) fun j => (allocates.contexts j).load]
    have := s.sum_setContext i .free Context.load
    rw [hc] at this
    simp only [State.totalLoad, Context.load, State.withAdoption_adoption, State.withAdoption_contexts] at *
    omega
  · rw [e]

theorem State.totalLoad_letGoEach (l : List CtxNum) (s : State) : (State.letGoEach l s).totalLoad = s.totalLoad := by
  induction l generalizing s with
  | nil => rfl
  | cons i rest ih =>
    rw [State.letGoEach, ih, State.letGo]
    split
    · rfl
    · exact s.totalLoad_becomeFree i

theorem State.totalLoad_released (s : State) : s.released.totalLoad = s.totalLoad := by
  obtain ⟨-, -, adoption, -⟩ := State.leaveLiveEach_fields (List.finRange 24) s
  rw [State.released, State.totalLoad_letGoEach]
  refine State.totalLoad_congr (by rw [adoption]) fun i => ?_
  rw [State.leaveLiveEach_get]
  split
  · exact s.contexts[i].load_withdrawn
  · rfl

end Load

/-! ### The adoption unit at highway loss -/

/-- Becoming FREE moves load to the free load and leaves the rest of the adoption unit (R8). -/
theorem State.becomeFree_adoption (s : State) (i : CtxNum) :
    ∃ load, (s.becomeFree i).adoption = { s.adoption with freeLoad := load } := by
  rcases s.becomeFree_cases i with ⟨c, -, e⟩ | ⟨-, e⟩
  · rw [e]
    exact ⟨_, (State.returnPages_allocates _ c.far.pages).adoption⟩
  · exact ⟨s.adoption.freeLoad, by rw [e]⟩

theorem State.letGoEach_adoption (l : List CtxNum) (s : State) :
    ∃ load, (State.letGoEach l s).adoption = { s.adoption with freeLoad := load } := by
  induction l generalizing s with
  | nil => exact ⟨_, rfl⟩
  | cons i rest ih =>
    obtain ⟨load, e⟩ := ih (s.letGo i)
    refine ⟨load, e.trans ?_⟩
    unfold State.letGo
    split
    · rfl
    · obtain ⟨n, h⟩ := s.becomeFree_adoption i
      rw [h]

theorem State.released_adoption (s : State) : ∃ load, s.released.adoption = { s.adoption with freeLoad := load } := by
  obtain ⟨-, -, adoption, -⟩ := State.leaveLiveEach_fields (List.finRange 24) s
  obtain ⟨load, e⟩ := State.letGoEach_adoption (List.finRange 24) (State.leaveLiveEach (List.finRange 24) s)
  exact ⟨load, by rw [State.released, e, adoption]⟩

/-! ### The pages returned at highway loss (R74) -/

section Pages

/-- With an empty wait list a return of pages is the return alone. -/
theorem State.returnPages_of_no_wait {s : State} (empty : s.history.waitList = []) (pages : List Page) :
    s.returnPages pages = s.withHistory { s.history with freePages := s.history.freePages ++ pages } := by
  simp only [State.returnPages, State.runGrantRule, State.withHistory_history, empty, State.grantFrom]
  rfl

theorem State.letGo_of_no_wait {s : State} (noneLive : ∀ (i : CtxNum) (c : Call), s.contexts[i] ≠ .live c)
    (empty : s.history.waitList = []) (i : CtxNum) : (s.letGo i).history.waitList = [] ∧
      (s.letGo i).history.freePages =
        s.history.freePages ++ if s.engineOn i then [] else s.contexts[i].pages := by
  cases on : s.engineOn i with
  | true => simpa [State.letGo, on] using empty
  | false =>
    rw [State.letGo, on, if_neg (by simp)]
    rcases s.becomeFree_cases i with ⟨c, hc, e⟩ | ⟨none, e⟩
    · rw [e, State.returnPages_of_no_wait (by exact empty), hc]
      exact ⟨empty, rfl⟩
    · have free : s.contexts[i].pages = [] := by
        cases h : s.contexts[i] with
        | free => rfl
        | live c => exact absurd h (noneLive i c)
        | releasing c => exact absurd h (none c)
      rw [e, free]
      exact ⟨empty, by simp⟩

/-- The pages of the contexts let go come back in the order in which they are let go. -/
theorem State.letGoEach_of_no_wait {l : List CtxNum} (nodup : l.Nodup) {s : State}
    (noneLive : ∀ (i : CtxNum) (c : Call), s.contexts[i] ≠ .live c) (empty : s.history.waitList = []) :
    (State.letGoEach l s).history.waitList = [] ∧ (State.letGoEach l s).history.freePages =
      s.history.freePages ++ l.flatMap fun i => if s.engineOn i then [] else s.contexts[i].pages := by
  induction l generalizing s with
  | nil => simpa [State.letGoEach] using empty
  | cons i rest ih =>
    obtain ⟨once, nodup⟩ := List.nodup_cons.mp nodup
    obtain ⟨left, pages⟩ := State.letGo_of_no_wait noneLive empty i
    have still (k : CtxNum) (c : Call) : (s.letGo i).contexts[k] ≠ .live c := by
      rw [State.letGo_get noneLive]
      split
      · nofun
      · exact noneLive k c
    obtain ⟨done, all⟩ := ih nodup still left
    refine ⟨done, ?_⟩
    rw [State.letGoEach, all, pages, List.flatMap_cons, List.append_assoc]
    congr 2
    refine List.flatMap_congr fun j hj => ?_
    have other : j ≠ i := by rintro rfl; exact once hj
    have kept : (s.letGo i).contexts[j] = s.contexts[j] := by
      rw [State.letGo_get noneLive, if_neg (not_and_of_not_left _ other)]
    rw [State.letGo_engineOn, kept]

/-- Once every context has left LIVE, no one waits (R60). -/
theorem State.WaitListExact.leaveLiveEach_empty {s : State} (h : s.WaitListExact) :
    (State.leaveLiveEach (List.finRange 24) s).history.waitList = [] := by
  have exact' := waitListExact_closed.leaveLiveEach (List.finRange 24) h
  rw [← List.map_eq_nil_iff (f := Prod.fst), List.eq_nil_iff_forall_not_mem]
  exact fun i => exact'.not_mem (s.leaveLiveEach_noneLive i)

theorem Context.withdrawn_pages (x : Context) : x.withdrawn.pages = x.pages := by
  cases x with
  | live c => exact c.withdraw_pages
  | _ => rfl

theorem State.WaitListExact.released_pages {s : State} (h : s.WaitListExact) : s.released.history.waitList = [] ∧
    s.released.history.freePages = s.history.freePages ++
      (List.finRange 24).flatMap fun i => if s.engineOn i then [] else s.contexts[i].pages := by
  obtain ⟨-, -, -, engine, -, -, free⟩ := State.leaveLiveEach_fields (List.finRange 24) s
  obtain ⟨done, pages⟩ := State.letGoEach_of_no_wait (List.nodup_finRange 24) s.leaveLiveEach_noneLive
    h.leaveLiveEach_empty
  rw [State.released, done, pages, free]
  refine ⟨rfl, congrArg (s.history.freePages ++ ·) (List.flatMap_congr fun i hi => ?_)⟩
  have on : (State.leaveLiveEach (List.finRange 24) s).engineOn i = s.engineOn i := by rw [State.engineOn, engine]; rfl
  rw [on, State.leaveLiveEach_get, if_pos hi, Context.withdrawn_pages]

end Pages

theorem State.engineOn_of_not {s : State} {i : CtxNum} (h : ∀ j, s.engine.job = some j → j.context ≠ i) :
    s.engineOn i = false := by
  unfold State.engineOn
  split
  next j hj => simpa using h j hj
  next => rfl

theorem State.engineOn_of_job {s : State} {i : CtxNum} {j : Job} (hj : s.engine.job = some j) (hi : j.context = i) :
    s.engineOn i = true := by
  simp [State.engineOn, hj, hi]

/-- Settles O14: what the contexts, the load and the pages are once every context is released; the rest are the values that
the loss writes. -/
theorem highwayLossReleasesEveryCall : Obligations.HighwayLossReleasesEveryCall := by
  intro s station
  obtain ⟨-, -, engine, pending, cells⟩ := s.released_fields
  obtain ⟨load, adoption⟩ := s.released_adoption
  refine ⟨s.loseHighway, ?_, ?_⟩
  · simp only [exec, execWatchTimerExpiry, station]
  simp only [State.loseHighway_eq, State.withLoader_loader, State.withLoader_highway, State.withHighway_highway,
    State.withLoader_adoption, State.withHighway_adoption, State.withAdoption_adoption, State.withLoader_contexts,
    State.withHighway_contexts, State.withAdoption_contexts, State.withLoader_engine, State.withHighway_engine,
    State.withAdoption_engine, State.withLoader_history, State.withHighway_history, State.withAdoption_history,
    State.withLoader_pending, State.withHighway_pending, State.withAdoption_pending]
  refine ⟨trivial, trivial, fun k => by simp, trivial, trivial, by rw [adoption], by rw [adoption], engine, cells, pending, fun i off => ?_,
    fun i j c hj hi hc => ?_, fun i j c hj hi hc => ?_, s.totalLoad_released, State.WaitListExact.released_pages⟩
  · rw [s.released_get, State.engineOn_of_not off]
    rfl
  · rw [s.released_get, State.engineOn_of_job hj hi, hc]
    rfl
  · rw [s.released_get, State.engineOn_of_job hj hi, hc]
    rfl

end Sys2Proof.Machine
end

section
/-! Rounds and adoption, and what a station that takes no part does (R5, R132, R134, R138, R141, R148 to R150). -/

namespace Sys2Proof.Machine

/-! ### Off the highway (R134, R138, R141, R142) -/

/-- Settles O15: every command of the highway asks first whether the station takes part, or in which state it is. -/
theorem offTheHighwayNothingIsTaken : Obligations.OffTheHighwayNothingIsTaken := by
  refine ⟨fun s lane k b x y off => ?_, fun s h lapsed => ?_, fun s n h station => ?_⟩
  · have out : ¬s.onHighway = true := by
      rw [State.onHighway_iff]
      rcases off with off | ⟨-, lapsed⟩
      · exact fun on => off on.1
      · simp [lapsed]
    simp only [exec, execRoundStart, execRoundOutcome, execSampleArrival, execControlArrival, execAnnounce, execRelease,
      execUpstreamWrite, if_neg out, true_and]
    rfl
  · simp only [exec, execHeaderComplete, lapsed, if_true]
    cases s.loader.station <;> rfl
  · rcases station with station | station | station <;>
      simp only [exec, execFrameMark, execMissingFrameMark, execHeaderComplete, execWatchTimerExpiry, station, and_self]

/-! ### Bids (R148, R149) -/

theorem bidValue_toNat {spare : Nat} (h : spare ≤ 4096) (serial : BitVec 24) :
    (bidValue spare serial).toNat = spare * 2 ^ 24 + serial.toNat := by
  have small : spare % 2 ^ 13 = spare := Nat.mod_eq_of_lt (by omega)
  rw [bidValue, BitVec.toNat_append, BitVec.toNat_ofNat, small, Nat.shiftLeft_eq, ← Nat.shiftLeft_eq,
    ← Nat.shiftLeft_add_eq_or_of_lt serial.isLt, Nat.shiftLeft_eq]

/-- The conditions of R148 for a bid. -/
theorem State.bidFor_isSome_iff (s : State) (k : Lane) : (s.bidFor k).isSome = true ↔
    ∃ n p, s.adoption.announced[k] = some n ∧ s.loader.profiles[n.toFin] = some p ∧
      (∃ i : CtxNum, s.contexts[i] = .free) ∧ p.load ≤ s.adoption.freeLoad := by
  constructor
  · intro h
    obtain ⟨b, hb⟩ := Option.isSome_iff_exists.mp h
    obtain ⟨-, n, p, entry, profile, valid, free, load, -⟩ := State.bidFor_eq_some hb
    exact ⟨n, p, entry, by simpa only [profile] using valid, s.lowestFree_isSome_iff.mp free, load⟩
  · rintro ⟨n, p, entry, valid, free, load⟩
    have named : s.announcedProfile k = some (n.toFin, p) := by 
      simp only [State.announcedProfile, entry, valid, Option.map_some]
    have free := s.lowestFree_isSome_iff.mpr free
    simp [State.bidFor, named, free, load]

/-- Settles O16. -/
theorem roundStartBidsExactlyWhenEligible : Obligations.RoundStartBidsExactlyWhenEligible := by
  intro s k station lapsed frame capacity
  refine ⟨s.bidFor k, ?_, s.bidFor_isSome_iff k, fun b hb => ?_⟩
  · simp only [exec, execRoundStart, State.onHighway_of_active station lapsed, frame, if_true]
    rfl
  · obtain ⟨lane, n, p, entry, profile, valid, -, -, value⟩ := State.bidFor_eq_some hb
    exact ⟨lane, n, p, entry, profile, valid, by rw [value, bidValue_toNat (by omega)]⟩

/-! ### The contend line (R132, R149) -/

/-- The number that bits spell, the most significant first. -/
def bitsValue : List Bool → Nat
  | [] => 0
  | b :: rest => b.toNat * 2 ^ rest.length + bitsValue rest

theorem bitsValue_lt (bits : List Bool) : bitsValue bits < 2 ^ bits.length := by
  induction bits with
  | nil => simp [bitsValue]
  | cons b rest ih =>
    rw [bitsValue, List.length_cons, Nat.pow_succ]
    cases b <;> simp <;> omega

theorem length_contendBits {w : Nat} (v : BitVec w) : (contendBits v).length = w := by simp [contendBits]

theorem contendBits_succ {w : Nat} (v : BitVec (w + 1)) : contendBits v = v.msb :: contendBits (v.setWidth w) := by
  rw [contendBits, List.range_succ_eq_map, List.map_cons, List.map_map]
  refine congrArg₂ _ rfl (List.map_congr_left fun n hn => ?_)
  have inside : n < w := List.mem_range.mp hn
  simp [BitVec.getMsbD_eq_getLsbD, inside, show w - (n + 1) = w - 1 - n by omega, show w - 1 - n < w by omega,
    BitVec.getLsbD_eq_getElem (show w - 1 - n < w + 1 by omega)]

/-- A word is its first bit and the rest. -/
theorem toNat_msb_setWidth {w : Nat} (v : BitVec (w + 1)) : v.msb.toNat * 2 ^ w + (v.setWidth w).toNat = v.toNat := by
  have bound := v.isLt
  have split := Nat.div_add_mod v.toNat (2 ^ w)
  simp only [BitVec.toNat_setWidth, BitVec.msb_eq_decide, Nat.add_sub_cancel]
  by_cases top : 2 ^ w ≤ v.toNat
  · have one : v.toNat / 2 ^ w = 1 := by
      rw [Nat.div_eq_iff (by positivity)]
      omega
    rw [one] at split
    simpa [top] using split
  · simp [top, Nat.mod_eq_of_lt (not_le.mp top)]

theorem bitsValue_contendBits {w : Nat} (v : BitVec w) : bitsValue (contendBits v) = v.toNat := by
  induction w with
  | zero => simp [contendBits, bitsValue, BitVec.eq_nil v]
  | succ w ih =>
    rw [contendBits_succ, bitsValue, ih, length_contendBits]
    exact toNat_msb_setWidth v

/-- Fields of one length are ordered by their first bits, and then by the rest. -/
theorem bitsValue_cons_le_iff {x y : List Bool} (length : x.length = y.length) (a b : Bool) :
    bitsValue (a :: x) ≤ bitsValue (b :: y) ↔ (a = false ∧ b = true) ∨ (a = b ∧ bitsValue x ≤ bitsValue y) := by
  have hx := bitsValue_lt x
  have hy := bitsValue_lt y
  rw [length] at hx
  cases a <;> cases b <;> simp [bitsValue, length] <;> omega

theorem staysIn_cons (b line : Bool) (rest others : List Bool) : staysIn (b :: rest) (line :: others) =
    if b = false ∧ line = true then false else staysIn rest others := by
  cases b <;> cases line <;> rfl

/-- What the contend line reads in a bit: 1 when a field still in sends 1. -/
def lineBit (fields : List (List Bool)) : Bool := fields.any fun f => f.headD false

/-- The rest of the fields still in after a bit. -/
def stillIn (fields : List (List Bool)) : List (List Bool) :=
  (fields.filter fun f => f.headD false == lineBit fields).map List.tail

theorem contendLine_succ (n : Nat) (fields : List (List Bool)) :
    contendLine (n + 1) fields = lineBit fields :: contendLine n (stillIn fields) := rfl

theorem lineBit_of_mem {fields : List (List Bool)} {rest : List Bool} (mem : true :: rest ∈ fields) :
    lineBit fields = true :=
  List.any_eq_true.mpr ⟨_, mem, rfl⟩

theorem mem_stillIn {n : Nat} {fields : List (List Bool)} (length : ∀ f ∈ fields, f.length = n + 1) (rest : List Bool) :
    rest ∈ stillIn fields ↔ lineBit fields :: rest ∈ fields := by
  simp only [stillIn, List.mem_map, List.mem_filter, beq_iff_eq]
  constructor
  · rintro ⟨f, ⟨mem, head⟩, rfl⟩
    obtain ⟨b, rest, rfl⟩ := List.exists_cons_of_length_eq_add_one (length f mem)
    rwa [← head]
  · exact fun mem => ⟨_, ⟨mem, rfl⟩, rfl⟩

/-- On the line that all the fields make, a field stays in exactly when no field spells a higher number. -/
theorem staysIn_contendLine_iff {n : Nat} {fields : List (List Bool)} (length : ∀ f ∈ fields, f.length = n)
    {f : List Bool} (mem : f ∈ fields) :
    staysIn f (contendLine n fields) = true ↔ ∀ g ∈ fields, bitsValue g ≤ bitsValue f := by
  induction n generalizing fields f with
  | zero =>
    have empty (g : List Bool) (hg : g ∈ fields) : g = [] := List.length_eq_zero_iff.mp (length g hg)
    rw [empty f mem]
    simp only [staysIn, true_iff]
    intro g hg
    rw [empty g hg]
  | succ n ih =>
    obtain ⟨b, rest, rfl⟩ := List.exists_cons_of_length_eq_add_one (length f mem)
    have sameLength {a : Bool} {x : List Bool} (hx : a :: x ∈ fields) : x.length = rest.length := by
      simpa using (length _ hx).trans (length _ mem).symm
    rw [contendLine_succ, staysIn_cons]
    by_cases drops : b = false ∧ lineBit fields = true
    · obtain ⟨rfl, one⟩ := drops
      rw [if_pos ⟨rfl, one⟩]
      obtain ⟨g, hg, head⟩ := List.any_eq_true.mp one
      obtain ⟨a, x, rfl⟩ := List.exists_cons_of_length_eq_add_one (length g hg)
      obtain rfl : a = true := head
      simp only [Bool.false_eq_true, false_iff, not_forall]
      exact ⟨_, hg, by simp [bitsValue_cons_le_iff (sameLength hg)]⟩
    · have stays : b = lineBit fields := by
        cases b with
        | false => simpa using drops
        | true => exact (lineBit_of_mem mem).symm
      rw [if_neg drops, ih (fun x hx => by simpa using length _ ((mem_stillIn length x).mp hx))
        ((mem_stillIn length rest).mpr (stays ▸ mem))]
      simp only [mem_stillIn length, ← stays]
      refine ⟨fun highest g hg => ?_, fun highest x hx => ?_⟩
      · obtain ⟨a, x, rfl⟩ := List.exists_cons_of_length_eq_add_one (length g hg)
        rw [bitsValue_cons_le_iff (sameLength hg)]
        by_cases same : a = b
        · subst same
          exact .inr ⟨rfl, highest x hg⟩
        · cases a with
          | false => exact .inl ⟨rfl, by simpa using Ne.symm same⟩
          | true => exact absurd (stays.trans (lineBit_of_mem hg)).symm same
      · simpa [bitsValue_cons_le_iff (sameLength hx)] using highest _ hx

/-- Settles O17. -/
theorem highestBidSurvives : Obligations.HighestBidSurvives := by
  intro bids b mem
  rw [staysIn_contendLine_iff (by simp [length_contendBits]) (List.mem_map_of_mem mem), List.forall_mem_map]
  simp only [bitsValue_contendBits]

/-! ### The outcome of a round (R5, R6, R150) -/

/-- A FREE context with none before it is the one that an adoption takes (R5). -/
theorem State.lowestFree_of_first {s : State} {i : CtxNum} (free : s.contexts[i] = .free)
    (first : ∀ j : CtxNum, j < i → s.contexts[j] ≠ .free) : s.lowestFree = some i := by
  rw [State.lowestFree, List.find?_eq_some_iff_getElem]
  refine ⟨(Context.isFree_iff _).mpr free, i, by simp, by simp, fun j hj => ?_⟩
  have used : ¬s.contexts[(⟨j, by omega⟩ : CtxNum)].isFree = true := (Context.isFree_iff _).not.mpr (first _ hj)
  simpa using used

/-- Settles O18. -/
theorem roundWonAdoptsTheCall : Obligations.RoundWonAdoptsTheCall := by
  intro s b p i x y station lapsed bid stays valid free first
  have lowest : s.endBid.lowestFree = some i := State.lowestFree_of_first free first
  have adopted : s.endBid.adopt b.lane b.profile p = (s.endBid.setContext i (.live (adoptedCall b.lane b.profile p))).withAdoption
      { s.endBid.adoption with freeLoad := s.adoption.freeLoad - p.load } := by
    simp only [State.adopt, lowest]
    rfl
  simp only [exec, execRoundOutcome, State.onHighway_of_active station lapsed, bid, stays, if_true]
  rcases s.endBid.winRound_cases b with ⟨q, named, e⟩ | ⟨missing, -⟩
  · obtain rfl : p = q := Option.some.inj (valid.symm.trans named)
    rw [e, adopted]
    rfl
  · cases valid.symm.trans missing

/-- Settles O19. -/
theorem roundLostFollowsTheConfirm : Obligations.RoundLostFollowsTheConfirm := by
  refine ⟨fun s b x y station lapsed bid out => ?_, fun s k x y station lapsed bid frame => ?_⟩
  · simp only [exec, execRoundOutcome, State.onHighway_of_active station lapsed, bid, out, if_true]
    cases y.getMsbD 0 <;> rfl
  · have run : exec (.roundOutcome x y) s = if y.getMsbD 0 then .next (s.setAnnounced k none) else .next s := by
      simp only [exec, execRoundOutcome, State.onHighway_of_active station lapsed, bid, frame, if_true]
    rw [run]
    cases y.getMsbD 0 <;> rfl

end Sys2Proof.Machine
end

section
/-! Arrivals, and the engine's choice (R12 to R16, R22, R23, R34, R134, R144, R145). -/

namespace Sys2Proof.Machine

/-! ### The engine's choice (R22, R23) -/

theorem State.takeNext_of_job {s : State} {j : Job} (job : s.engine.job = some j) : s.takeNext = s := by
  simp only [State.takeNext, job]

theorem State.takeNext_of_empty {s : State} (empty : ∀ (i : CtxNum) (c : Call), s.contexts[i] = .live c → c.inputQueue = []) :
    s.takeNext = s := by
  rcases s.takeNext_cases with ⟨-, e⟩ | ⟨-, -, e⟩ | ⟨-, i, c, x, rest, -, hc, hq, -⟩
  · exact e
  · exact e
  · rw [empty i c hc] at hq
    cases hq

/-- The order in which the lanes are examined, cut at a lane: before it stand the lanes nearer to the last served one. -/
theorem laneOrder_split (last k : Lane) : ∃ before after, laneOrder last = before ++ k :: after ∧
    ∀ x ∈ before, (x - (last + 1)).val < (k - (last + 1)).val := by
  obtain ⟨before, after, split⟩ := List.append_of_mem (List.mem_finRange (k - (last + 1)))
  have rising := List.pairwise_lt_finRange 64
  rw [split, List.pairwise_append] at rising
  refine ⟨before.map (last + 1 + ·), after.map (last + 1 + ·), ?_, fun x hx => ?_⟩
  · rw [laneOrder, split, List.map_append, List.map_cons, add_sub_cancel]
  · obtain ⟨d, hd, rfl⟩ := List.mem_map.mp hx
    rw [add_sub_cancel_left]
    exact rising.2.2 d hd _ List.mem_cons_self

/-- The engine takes the first candidate after the last served lane (R23). -/
theorem State.takeNext_of_first {s : State} {i : CtxNum} {c : Call} {e : Entry} {rest : List Entry} (idle : s.engine.job = none)
    (owner : s.owner c.lane = some (i, c)) (queue : c.inputQueue = e :: rest)
    (first : ∀ (j : CtxNum) (d : Call), s.contexts[j] = .live d → d.inputQueue ≠ [] →
      (c.lane - (s.engine.lastServed + 1)).val ≤ (d.lane - (s.engine.lastServed + 1)).val) :
    s.takeNext = (s.setContext i (.live { c with inputQueue := rest })).withEngine
      { job := some { context := i, entry := e }, lastServed := c.lane } := by
  obtain ⟨before, after, order, nearer⟩ := laneOrder_split s.engine.lastServed c.lane
  have here : s.candidate c.lane = some (i, { c with inputQueue := rest }, e) := by
    simp only [State.candidate, owner, queue]
  have none (k : Lane) (hk : k ∈ before) : s.candidate k = none := by
    cases h : s.candidate k with
    | none => rfl
    | some x =>
      obtain ⟨j, y, z⟩ := x
      obtain ⟨d, r, ho, hq, -⟩ := State.candidate_eq_some h
      obtain ⟨hd, rfl⟩ := State.owner_eq_some ho
      exact absurd (first j d hd (by simp [hq])) (Nat.not_le.mpr (nearer _ hk))
  have found : (laneOrder s.engine.lastServed).findSome? s.candidate = some (i, { c with inputQueue := rest }, e) :=
    List.findSome?_eq_some_iff.mpr ⟨before, c.lane, after, order, here, none⟩
  simp only [State.takeNext, idle, found]

/-- Settles O26. -/
theorem engineTakesLanesInTurn : Obligations.EngineTakesLanesInTurn := by
  refine ⟨fun s i c e rest lanes idle hc queue first => ?_, fun s j => State.takeNext_of_job, fun s => State.takeNext_of_empty⟩
  exact State.takeNext_of_first idle (State.owner_of_live hc fun j d hd same => lanes.1 j i d c hd hc same) queue first

/-! ### Arrivals (R12, R15, R34) -/

section Arrivals

variable {s : State} {lane : Lane} (active : s.loader.station = .active) (mark : s.highway.lapsed = false)

/-- A LIVE context that alone holds a lane owns it. -/
theorem State.owner_of_only {i : CtxNum} {c : Call} (hc : s.contexts[i] = .live c) (hl : c.lane = lane)
    (only : ∀ (n : CtxNum) (d : Call), s.contexts[n] = .live d → d.lane = lane → n = i) : s.owner lane = some (i, c) := by
  subst hl
  exact State.owner_of_live hc only

include active mark

theorem exec_sampleArrival_of_owner {i : CtxNum} {c : Call} (owner : s.owner lane = some (i, c)) (k : BitVec 4)
    (b : Vector Byte 17) : exec (.sampleArrival lane k b) s = .next (s.arrive i c (.sample (c.sampleEntry k b))) := by
  simp only [exec, execSampleArrival, State.onHighway_of_active active mark, owner, if_true]

theorem exec_controlArrival_of_owner {i : CtxNum} {c : Call} (owner : s.owner lane = some (i, c)) (k : BitVec 4)
    (b : Vector Byte 17) :
    exec (.controlArrival lane k b) s = .next (s.arrive i c (.control { kind := k, bytes := b })) := by
  simp only [exec, execControlArrival, State.onHighway_of_active active mark, owner, if_true]

end Arrivals

section Queue

variable {s : State} {i : CtxNum} {c : Call} (e : Entry)

theorem State.arrive_of_room (room : c.inputQueue.length < 3) :
    s.arrive i c e = (s.setContext i (.live (c.enqueue e))).takeNext := if_pos room

theorem State.arrive_of_full (full : 3 ≤ c.inputQueue.length) :
    s.arrive i c e = s.setContext i (.live (c.latch .overrun)) := if_neg (Nat.not_lt.mpr full)

theorem State.arrive_of_busy (room : c.inputQueue.length < 3) {j : Job} (job : s.engine.job = some j) :
    s.arrive i c e = s.setContext i (.live (c.enqueue e)) := by
  rw [State.arrive_of_room e room]
  exact State.takeNext_of_job (by exact job)

/-- The entry of an arrival at an idle engine is the only one waiting. -/
theorem State.arrive_of_idle (hc : s.contexts[i] = .live c)
    (only : ∀ (n : CtxNum) (d : Call), s.contexts[n] = .live d → d.lane = c.lane → n = i) (idle : s.engine.job = none)
    (empty : ∀ (n : CtxNum) (d : Call), s.contexts[n] = .live d → d.inputQueue = []) :
    s.arrive i c e = (s.setContext i (.live { c.enqueue e with inputQueue := [] })).withEngine
      { job := some { context := i, entry := e }, lastServed := c.lane } := by
  have queue : (c.enqueue e).inputQueue = [e] := by simp [Call.enqueue, empty i c hc]
  have live (n : CtxNum) (d : Call) (hd : (s.setContext i (.live (c.enqueue e))).contexts[n] = .live d) :
      n = i ∧ d = c.enqueue e ∨ n ≠ i ∧ s.contexts[n] = .live d := by
    rw [State.setContext_get] at hd
    split at hd
    next h => exact .inl ⟨h, (Context.live.inj hd).symm⟩
    next h => exact .inr ⟨h, hd⟩
  have owner : (s.setContext i (.live (c.enqueue e))).owner (c.enqueue e).lane = some (i, c.enqueue e) := by
    refine State.owner_of_live (s.setContext_self ..) fun n d hd same => ?_
    rcases live n d hd with ⟨h, -⟩ | ⟨-, hd⟩
    · exact h
    · exact only n d hd same
  rw [State.arrive_of_room e (by simp [empty i c hc]), State.takeNext_of_first (s := s.setContext i (.live (c.enqueue e))) idle
    owner queue fun n d hd waiting => ?_]
  · simp only [State.setContext, State.withEngine, Vector.set_set]
    rfl
  · rcases live n d hd with ⟨-, rfl⟩ | ⟨-, hd⟩
    · exact le_rfl
    · exact absurd (empty n d hd) waiting

end Queue

/-- Settles O21. -/
theorem arrivalIsQueuedOrOverruns : Obligations.ArrivalIsQueuedOrOverruns := by
  intro s lane k b i c j active mark hc hl only job
  have owner := State.owner_of_only hc hl only
  rw [exec_sampleArrival_of_owner active mark owner, exec_controlArrival_of_owner active mark owner]
  refine ⟨fun room => ?_, fun full => ?_⟩
  · rw [State.arrive_of_busy _ room job, State.arrive_of_busy _ room job]
    exact ⟨rfl, rfl⟩
  · rw [State.arrive_of_full _ full, State.arrive_of_full _ full]
    exact ⟨rfl, rfl⟩

/-- Settles O22. -/
theorem idleEngineTakesTheArrival : Obligations.IdleEngineTakesTheArrival := by
  intro s lane k b i c active mark hc hl only idle empty
  have owner := State.owner_of_only hc hl only
  subst hl
  rw [exec_sampleArrival_of_owner active mark owner, exec_controlArrival_of_owner active mark owner,
    State.arrive_of_idle _ hc only idle empty, State.arrive_of_idle _ hc only idle empty]
  have sampled (x : SampleEntry) :
      { c.enqueue (.sample x) with inputQueue := [] } = { c with lastSequence := some x.sequence } := by
    rw [← empty i c hc]
    rfl
  have controlled (x : ControlEntry) : { c.enqueue (.control x) with inputQueue := [] } = c := by
    rw [← empty i c hc]
    rfl
  have kept : s.contexts.set i (.live c) = s.contexts := by
    rw [← hc]
    simp
  rw [sampled, controlled]
  refine ⟨rfl, ?_⟩
  simp only [State.setContext, State.withEngine, kept]

/-- Settles O23. -/
theorem halvesInAnUnownedLane : Obligations.HalvesInAnUnownedLane := by
  intro s lane k b active mark unowned
  have none := State.owner_eq_none.mpr unowned
  have kept : s.releaseOwner lane = s := by simp only [State.releaseOwner, none]
  simp only [exec, execSampleArrival, execControlArrival, execAnnounce, execRelease, execIdleArrival,
    State.onHighway_of_active active mark, none, kept, if_true, true_and, implies_true, and_true]
  exact ⟨rfl, rfl⟩

/-! ### What an arrival reads (R166, R167) -/

/-- The entry of a SAMPLE looks at bits 0 and 1 of byte 1, at bytes 2..13, and at bytes 14..17 when bit 0 says so. -/
theorem Call.sampleEntry_congr (c : Call) (q : BitVec 4) {a b : Vector Byte 17} (present : a[0].getLsbD 0 = b[0].getLsbD 0)
    (quiet : a[0].getLsbD 1 = b[0].getLsbD 1) (fields : ∀ n : Fin 17, 1 ≤ n.val → n.val ≤ 12 → a[n] = b[n])
    (reference : a[0].getLsbD 0 = true → ∀ n : Fin 17, 13 ≤ n.val → a[n] = b[n]) :
    c.sampleEntry q a = c.sampleEntry q b := by
  have same (n : Nat) (low : 1 ≤ n) (high : n ≤ 12) : a[n] = b[n] := fields ⟨n, by omega⟩ low high
  have reference : sampleReference a = sampleReference b := by
    rw [sampleReference, sampleReference, ← present]
    split
    next h =>
      have same (n : Nat) (low : 13 ≤ n) (high : n < 17) : a[n] = b[n] := reference h ⟨n, high⟩ low
      simp [same]
    next => rfl
  have quiet : sampleQuiet a = sampleQuiet b := quiet
  simp [Call.sampleEntry, sampleSymbol, sampleR0, sampleR1, same, quiet, reference]

/-- Settles O5. -/
theorem unreadSampleBitsHaveNoEffect : Obligations.UnreadSampleBitsHaveNoEffect := by
  intro lane q a b s present quiet fields reference
  simp only [exec, execSampleArrival, Call.sampleEntry_congr _ q present quiet fields reference]

end Sys2Proof.Machine
end

section
/-! The allocator's grant rule, and the release of a lane (R7 to R9, R35, R58 to R61, R144, R145). -/

namespace Sys2Proof.Machine

/-! ### The grant rule (R60, R61) -/

section Grant

variable {s : State}

theorem State.grantPages_of_waiting {i : CtxNum} {need : Nat} {c : Call} {d : Nat} (hc : s.contexts[i] = .live c)
    (waiting : c.far = .waiting d) : s.grantPages i need =
      (s.setContext i (.live (c.withFar (.filling (.granted d (s.history.freePages.take need)))))).withHistory
        { s.history with freePages := s.history.freePages.drop need } := by
  simp only [State.grantPages, hc, waiting]

theorem State.grantPages_of_not_waiting {i : CtxNum} (h : ¬∃ c d, s.contexts[i] = .live c ∧ c.far = .waiting d) (need : Nat) :
    s.grantPages i need = s := by
  unfold State.grantPages
  split
  next c hc =>
    split
    next d waiting => exact absurd ⟨c, d, hc, waiting⟩ h
    all_goals rfl
  all_goals rfl

/-- What the grant rule leaves of a wait list is an end of it. -/
theorem State.grantFrom_waitList_suffix (w : List (CtxNum × Nat)) (s : State) :
    (State.grantFrom w s).history.waitList <:+ w := by
  induction w generalizing s with
  | nil => exact List.suffix_rfl
  | cons e rest ih =>
    rw [State.grantFrom]
    split
    · exact (ih _).trans (List.suffix_cons e rest)
    · exact List.suffix_rfl

/-- The grant rule stops where it has nothing more to grant. -/
theorem State.runGrantRule_grantFrom (w : List (CtxNum × Nat)) (s : State) :
    (State.grantFrom w s).runGrantRule = State.grantFrom w s := by
  induction w generalizing s with
  | nil => rfl
  | cons e rest ih =>
    rw [State.grantFrom]
    split
    · exact ih _
    · rw [State.runGrantRule, State.withWaitList_history_waitList, State.grantFrom, if_neg (by assumption)]
      rfl

theorem State.grantPages_withAdoption (s : State) (a : Adoption) (i : CtxNum) (need : Nat) :
    (s.withAdoption a).grantPages i need = (s.grantPages i need).withAdoption a := by
  unfold State.grantPages
  rw [State.withAdoption_contexts]
  split
  · split <;> rfl
  · rfl
  · rfl

/-- The grant rule does not look at the adoption unit. -/
theorem State.grantFrom_withAdoption (w : List (CtxNum × Nat)) (s : State) (a : Adoption) :
    State.grantFrom w (s.withAdoption a) = (State.grantFrom w s).withAdoption a := by
  induction w generalizing s with
  | nil => rfl
  | cons e rest ih =>
    rw [State.grantFrom, State.grantFrom, State.withAdoption_history, State.grantPages_withAdoption, ih]
    split <;> rfl

theorem State.grantPages_setContext {i j : CtxNum} (other : j ≠ i) (s : State) (x : Context) (need : Nat) :
    (s.setContext i x).grantPages j need = (s.grantPages j need).setContext i x := by
  have different : i.val ≠ j.val := fun e => other (Fin.ext e.symm)
  have same := State.setContext_of_ne s x other
  by_cases waits : ∃ c d, s.contexts[j] = .live c ∧ c.far = .waiting d
  · obtain ⟨c, d, hc, waiting⟩ := waits
    rw [State.grantPages_of_waiting hc waiting, State.grantPages_of_waiting (same.trans hc) waiting]
    simp only [State.setContext, State.withHistory, Vector.set_comm _ _ different]
  · rw [State.grantPages_of_not_waiting waits, State.grantPages_of_not_waiting (by rwa [same])]

/-- The grant rule does not look at a context that is not in the wait list. -/
theorem State.grantFrom_setContext {w : List (CtxNum × Nat)} {i : CtxNum} (absent : i ∉ w.map Prod.fst) (s : State)
    (x : Context) : State.grantFrom w (s.setContext i x) = (State.grantFrom w s).setContext i x := by
  induction w generalizing s with
  | nil => rfl
  | cons e rest ih =>
    obtain ⟨other, absent⟩ := not_or.mp (List.mem_cons.not.mp absent)
    rw [State.grantFrom, State.grantFrom, State.setContext_history, State.grantPages_setContext (Ne.symm other), ih absent]
    split <;> rfl

end Grant

theorem FarSection.isWaiting_iff (far : FarSection) : far.isWaiting = true ↔ ∃ d, far = .waiting d := by
  cases far <;> simp [FarSection.isWaiting]

/-- What a run of the grant rule over a wait list does: the first part is granted, each of it with the next pages, and the
rest waits on for want of pages (R61). -/
structure State.Grants (s t : State) (granted rest : List (CtxNum × Nat)) : Prop where
  waitList : t.history.waitList = rest
  covered : (granted.map Prod.snd).sum ≤ s.history.freePages.length
  freePages : t.history.freePages = s.history.freePages.drop (granted.map Prod.snd).sum
  stops : ∀ i need, rest.head? = some (i, need) → s.history.freePages.length - (granted.map Prod.snd).sum < need
  served : ∀ before i need after, granted = before ++ (i, need) :: after → ∃ c d,
    s.contexts[i] = .live c ∧ c.far = .waiting d ∧ t.contexts[i] = .live { c with
      far := .filling {
        delay := d, pages := (s.history.freePages.drop (before.map Prod.snd).sum).take need, writeIndex := 0, fill := 0 } }
  others : ∀ i : CtxNum, i ∉ granted.map Prod.fst → t.contexts[i] = s.contexts[i]

theorem State.Grants.none (s : State) {w : List (CtxNum × Nat)}
    (stops : ∀ i need, w.head? = some (i, need) → s.history.freePages.length < need) :
    s.Grants (s.withWaitList w) [] w where
  waitList := rfl
  covered := Nat.zero_le _
  freePages := rfl
  stops := stops
  served before i need after h := by simp at h
  others _ _ := rfl

/-- One more grant at the head. -/
theorem State.Grants.cons {s t : State} {i : CtxNum} {need : Nat} {c : Call} {d : Nat} (hc : s.contexts[i] = .live c)
    (waiting : c.far = .waiting d) (enough : need ≤ s.history.freePages.length) {granted rest : List (CtxNum × Nat)}
    (once : i ∉ granted.map Prod.fst) (h : (s.grantPages i need).Grants t granted rest) :
    s.Grants t ((i, need) :: granted) rest := by
  rw [State.grantPages_of_waiting hc waiting] at h
  obtain ⟨waitList, covered, freePages, stops, served, others⟩ := h
  simp only [State.withHistory_history, State.withHistory_contexts, List.length_drop, List.drop_drop] at *
  have kept (k : CtxNum) (ne : k ≠ i) := State.setContext_of_ne s (.live (c.withFar (.filling (.granted d (s.history.freePages.take need))))) ne
  have sum : (((i, need) :: granted).map Prod.snd).sum = need + (granted.map Prod.snd).sum := by simp
  refine ⟨waitList, by rw [sum]; omega, by rw [sum, freePages], fun k n hk => ?_, fun before k n after e => ?_, fun k hk => ?_⟩
  · have := stops k n hk
    rw [sum]
    omega
  · cases before with
    | nil =>
      obtain ⟨⟨rfl, rfl⟩, rfl⟩ : (i = k ∧ need = n) ∧ granted = after := by simpa using e
      refine ⟨c, d, hc, waiting, ?_⟩
      rw [others i once, State.setContext_self]
      rfl
    | cons first before =>
      obtain ⟨rfl, rfl⟩ := List.cons.inj e
      have ne : k ≠ i := by
        rintro rfl
        exact once (by simp)
      obtain ⟨c', d', hc', waiting', result⟩ := served before k n after rfl
      exact ⟨c', d', (kept k ne) ▸ hc', waiting', by simpa using result⟩
  · obtain ⟨ne, absent⟩ := not_or.mp (List.mem_cons.not.mp hk)
    rw [others k absent, kept k ne]

theorem State.grantFrom_grants {w : List (CtxNum × Nat)} {s : State} (once : (w.map Prod.fst).Nodup)
    (waits : ∀ i ∈ w.map Prod.fst, ∃ c, s.contexts[i] = .live c ∧ c.far.isWaiting = true) :
    ∃ granted rest, w = granted ++ rest ∧ s.Grants (State.grantFrom w s) granted rest := by
  induction w generalizing s with
  | nil => exact ⟨[], [], rfl, .none s fun _ _ h => nomatch h⟩
  | cons e rest ih =>
    obtain ⟨i, need⟩ := e
    obtain ⟨absent, once⟩ := List.nodup_cons.mp once
    rw [State.grantFrom]
    split
    next enough =>
      obtain ⟨c, hc, waiting⟩ := waits i List.mem_cons_self
      obtain ⟨d, far⟩ := c.far.isWaiting_iff.mp waiting
      have granted : s.grantPages i need = _ := State.grantPages_of_waiting hc far
      obtain ⟨first, after, rfl, g⟩ := ih (s := s.grantPages i need) once fun k hk => by
        have ne : k ≠ i := by
          rintro rfl
          exact absent hk
        rw [granted, State.withHistory_contexts, State.setContext_of_ne s _ ne]
        exact waits k (List.mem_cons_of_mem _ hk)
      have fresh : i ∉ first.map Prod.fst := fun m => absent (by
        rw [List.map_append]
        exact List.mem_append_left _ m)
      exact ⟨(i, need) :: first, after, rfl, .cons hc far enough fresh g⟩
    next short =>
      refine ⟨[], _, rfl, .none s fun k n h => ?_⟩
      obtain ⟨-, rfl⟩ : i = k ∧ need = n := by simpa using h
      omega

/-- Settles O25. -/
theorem grantRuleServesTheHead : Obligations.GrantRuleServesTheHead := by
  rintro s ⟨once, exact', -⟩
  obtain ⟨granted, rest, split, g⟩ := State.grantFrom_grants once fun i m => (exact' i).mp m
  have frame := s.runGrantRule_allocates
  exact ⟨granted, rest, split, g.waitList, g.covered, g.freePages, g.stops, g.served, g.others, frame.loader, frame.highway,
    frame.adoption, frame.engine, frame.cells, frame.pending⟩

/-! ### A release (R7, R8, R144, R145) -/

section Release

variable {s : State} {i : CtxNum} {c : Call}

theorem State.runGrantRule_setAnnounced (s : State) (lane : Lane) (e : Option (BitVec 4)) :
    s.runGrantRule.setAnnounced lane e = (s.setAnnounced lane e).runGrantRule := by
  rw [State.setAnnounced, s.runGrantRule_allocates.adoption]
  exact (State.grantFrom_withAdoption s.history.waitList s _).symm

/-- The context that a release takes out of LIVE, once it has left the wait list. -/
theorem State.leaveLive_self (hc : s.contexts[i] = .live c) :
    (s.leaveLive i).contexts[i] = .releasing c.withdraw ∧ i ∉ (s.leaveLive i).history.waitList.map Prod.fst := by
  rw [State.leaveLive_of_live hc]
  refine ⟨by rw [State.leaveWaitList_contexts, State.setContext_self], ?_⟩
  rw [State.leaveWaitList_history_waitList, mem_map_fst_filter_ne]
  exact fun h => h.1 rfl

theorem State.letGo_of_on (on : s.engineOn i = true) : s.letGo i = s := if_pos on

theorem State.letGo_of_off (off : s.engineOn i = false) : s.letGo i = s.becomeFree i := if_neg (by simp [off])

/-- What becomes of a RELEASING context that is let go. -/
theorem State.becomeFree_of_releasing (hc : s.contexts[i] = .releasing c) : s.becomeFree i =
    State.runGrantRule { s with
      contexts := s.contexts.set i .free
      history := { s.history with freePages := s.history.freePages ++ c.far.pages }
      adoption := { s.adoption with freeLoad := s.adoption.freeLoad + c.settings.load } } := by
  simp only [State.becomeFree, hc]
  rfl

/-- A context freed after a run of the grant rule, with no pages to return, could as well be freed before it. -/
theorem State.becomeFree_runGrantRule (hc : s.contexts[i] = .releasing c) (none : c.far.pages = [])
    (absent : i ∉ s.history.waitList.map Prod.fst) : s.runGrantRule.becomeFree i = s.becomeFree i := by
  have kept : s.runGrantRule.contexts[i] = .releasing c := by
    rw [(s.runGrantRule_allocates.contexts i).eq_of_not_waiting (by simp [hc]), hc]
  rw [State.becomeFree_of_releasing kept, State.becomeFree_of_releasing hc, none, List.append_nil, List.append_nil,
    s.runGrantRule_allocates.adoption]
  have after : (s.runGrantRule.setContext i .free).withAdoption
      { s.adoption with freeLoad := s.adoption.freeLoad + c.settings.load } =
      ((s.setContext i .free).withAdoption
        { s.adoption with freeLoad := s.adoption.freeLoad + c.settings.load }).runGrantRule := by
    rw [State.runGrantRule, State.runGrantRule, State.withAdoption_history, State.grantFrom_withAdoption,
      State.setContext_history, State.grantFrom_setContext absent]
  exact (congrArg State.runGrantRule after).trans (State.runGrantRule_grantFrom _ _)

theorem State.releaseContext_of_live (hc : s.contexts[i] = .live c) : s.releaseContext i =
    (if c.far.isWaiting then (s.leaveLive i).runGrantRule else s.leaveLive i).letGo i := by
  simp only [State.releaseContext, hc]

theorem FarSection.pages_of_waiting {c : Call} (waiting : c.far.isWaiting = true) : c.withdraw.far.pages = [] := by
  simp only [Call.withdraw, waiting, if_true]
  rfl

/-- A released context that the engine is not working on is freed, WAITING or not. -/
theorem State.releaseContext_of_off (hc : s.contexts[i] = .live c) (off : s.engineOn i = false) :
    s.releaseContext i = (s.leaveLive i).becomeFree i := by
  obtain ⟨self, absent⟩ := State.leaveLive_self hc
  have off' : (s.leaveLive i).engineOn i = false := by rwa [State.engineOn, State.leaveLive_engine]
  rw [State.releaseContext_of_live hc]
  split
  next waiting =>
    have off'' : (s.leaveLive i).runGrantRule.engineOn i = false := by
      rwa [State.engineOn, (s.leaveLive i).runGrantRule_allocates.engine]
    rw [State.letGo_of_off off'', State.becomeFree_runGrantRule self (FarSection.pages_of_waiting waiting) absent]
  next => exact State.letGo_of_off off'

/-- A released context that the engine is working on stays RELEASING. -/
theorem State.releaseContext_of_on (hc : s.contexts[i] = .live c) (on : s.engineOn i = true) : s.releaseContext i =
    if c.far.isWaiting then (s.leaveLive i).runGrantRule else s.leaveLive i := by
  rw [State.releaseContext_of_live hc]
  refine State.letGo_of_on ?_
  split
  · rwa [State.engineOn, (s.leaveLive i).runGrantRule_allocates.engine, State.leaveLive_engine]
  · rwa [State.engineOn, State.leaveLive_engine]

end Release

theorem exec_release_of_owner {s : State} {lane : Lane} {i : CtxNum} {c : Call} (active : s.loader.station = .active)
    (mark : s.highway.lapsed = false) (owner : s.owner lane = some (i, c)) {cmd : Instr} {e : Option (BitVec 4)}
    (command : cmd = .release lane ∧ e = none ∨ ∃ k, cmd = .announce lane k ∧ e = some k) :
    exec cmd s = .next ((s.releaseContext i).setAnnounced lane e) := by
  rcases command with ⟨rfl, rfl⟩ | ⟨k, rfl, rfl⟩ <;>
    simp only [exec, execRelease, execAnnounce, State.onHighway_of_active active mark, State.releaseOwner, owner, if_true]

/-- Settles O24: the context leaves LIVE; whether it is freed in the same event is whether the engine works on it, and the
grant rule, which does not look at it any more, may run before or after. -/
theorem releaseOfAnOwnedLane : Obligations.ReleaseOfAnOwnedLane := by
  intro s lane i c cmd e active mark hc hl only command
  have run := exec_release_of_owner active mark (State.owner_of_only hc hl only) command
  have kept : c.far.isWaiting = false → c.withdraw = { c with inputQueue := [], outputQueue := [], statusDue := false } :=
    fun h => by rw [Call.withdraw, h]; rfl
  have unset : c.far.isWaiting = true →
      c.withdraw = { c with inputQueue := [], outputQueue := [], statusDue := false, far := .unset } :=
    fun h => by rw [Call.withdraw, h]; rfl
  have freed (off : ∀ j, s.engine.job = some j → j.context ≠ i) : exec cmd s = .next (State.runGrantRule
      { s with
        contexts := s.contexts.set i .free
        history := { s.history with
          freePages := s.history.freePages ++ c.far.pages, waitList := s.history.waitList.filter fun x => x.1 != i }
        adoption := { s.adoption with
          announced := s.adoption.announced.set lane e, freeLoad := s.adoption.freeLoad + c.settings.load } }) := by
    rw [run, State.releaseContext_of_off hc (State.engineOn_of_not off),
      State.becomeFree_of_releasing (State.leaveLive_self hc).1, State.runGrantRule_setAnnounced, Call.withdraw_pages,
      State.leaveLive_of_live hc]
    simp only [State.setAnnounced, State.withAdoption, State.leaveWaitList, State.withWaitList, State.withHistory,
      State.setContext, Vector.set_set]
    rfl
  refine ⟨fun j job here still => ?_, freed, fun j job here waiting => ?_, fun off => ⟨_, freed off, ?_⟩⟩
  · rw [run, State.releaseContext_of_on hc (State.engineOn_of_job job here), if_neg (by simp [still]),
      State.leaveLive_of_live hc, kept still]
    rfl
  · rw [run, State.releaseContext_of_on hc (State.engineOn_of_job job here), if_pos waiting,
      State.runGrantRule_setAnnounced, State.leaveLive_of_live hc, unset waiting]
    rfl
  · have frame := State.runGrantRule_allocates
      { s with
        contexts := s.contexts.set i .free
        history := { s.history with
          freePages := s.history.freePages ++ c.far.pages, waitList := s.history.waitList.filter fun x => x.1 != i }
        adoption := { s.adoption with
          announced := s.adoption.announced.set lane e, freeLoad := s.adoption.freeLoad + c.settings.load } }
    have free : (s.setContext i .free).contexts[i] = .free := s.setContext_self ..
    rw [frame.adoption]
    refine ⟨((frame.contexts i).eq_of_not_waiting fun d hd => (nomatch free.symm.trans hd)).trans free, rfl, by simp, fun _ m => ?_, fun k ne => ?_⟩
    · have suffix := (State.grantFrom_waitList_suffix _ _).map Prod.fst |>.subset m
      exact (mem_map_fst_filter_ne.mp suffix).1 rfl
    · exact (s.setAnnounced_get lane k e).trans (if_neg ne)

/-! ### The completion of an entry of a RELEASING context (R8, R9, R35) -/

/-- The command that completes a CONTROL entry is one for its kind. -/
theorem exec_completion_control (e : ControlEntry) (s : State) : ∃ isKind effect,
    exec (Entry.control e).completion s = .next (s.completeControl isKind effect) ∧ isKind e.kind = true := by
  unfold Entry.completion
  dsimp only
  split
  case h_9 h1 h2 h3 h4 h5 h6 h7 h8 =>
    refine ⟨_, _, rfl, ?_⟩
    have bound := e.kind.isLt
    simp only [imp_false] at h1 h2 h3 h4 h5 h6 h7 h8
    simp only [isUnknownKind, Bool.or_eq_true, beq_iff_eq, decide_eq_true_eq]
    omega
  all_goals exact ⟨_, _, rfl, beq_iff_eq.mpr (BitVec.eq_of_toNat_eq (by assumption))⟩

theorem State.completeFor_of_releasing {s : State} {i : CtxNum} {c : Call} (hc : s.contexts[i] = .releasing c)
    (outcome : Call → State → State) : s.completeFor i outcome = (s.endJob.becomeFree i).takeNext := by
  simp only [State.completeFor, hc]

theorem State.completeControl_of_job {s : State} {i : CtxNum} {e : ControlEntry}
    (job : s.engine.job = some { context := i, entry := .control e }) {isKind : BitVec 4 → Bool}
    (kind : isKind e.kind = true) (effect : CtxNum → Vector Byte 17 → Call → State → State) :
    s.completeControl isKind effect = s.completeFor i (effect i e.bytes) := by
  simp only [State.completeControl, job, kind, if_true]

/-- Settles O27: every completing command asks first what the context is, and a RELEASING one is freed whatever the
entry. -/
theorem releasingCompletionIsDiscarded : Obligations.ReleasingCompletionIsDiscarded := by
  intro s j c job hc
  obtain ⟨i, entry⟩ := j
  have discarded : ∃ outcome, exec entry.completion s = .next (s.completeFor i outcome) := by
    cases entry with
    | sample e =>
      refine ⟨fun _ t => t, ?_⟩
      simp only [Entry.completion, exec, execSampleEntryCompletion, job, hc]
    | control e =>
      obtain ⟨isKind, effect, run, kind⟩ := exec_completion_control e s
      exact ⟨_, by rw [run, State.completeControl_of_job job kind]⟩
  obtain ⟨outcome, run⟩ := discarded
  rw [run, State.completeFor_of_releasing hc, State.becomeFree_of_releasing (s := s.endJob) (i := i) hc]
  rfl

end Sys2Proof.Machine
end

section
/-! Controls, conditions, and the upstream write (R33, R62, R65 to R70, R99 to R103, R113, R117, R123, R124, R136). -/

namespace Sys2Proof.Machine

/-! ### The status code (R113) -/

theorem Condition.mem_inPriority (x : Condition) : x ∈ Condition.inPriority := by cases x <;> decide

theorem Condition.inPriority_rising : Condition.inPriority.Pairwise fun x y => x.code < y.code := by decide

/-- Settles O42: the conditions stand in the order of their codes, so that the first one pending has the smallest. -/
theorem statusCodeIsTheSmallestPending : Obligations.StatusCodeIsTheSmallestPending := by
  refine fun c => ⟨fun none => ?_, fun x pending smallest => ?_⟩
  · have missing : Condition.inPriority.find? c.isPending = .none :=
      List.find?_eq_none.mpr fun x _ => by simp [none x]
    rw [Call.statusCode, missing]
  · obtain ⟨y, found⟩ := Option.isSome_iff_exists.mp (List.find?_isSome.mpr ⟨x, x.mem_inPriority, pending⟩)
    obtain ⟨here, before, after, split, earlier⟩ := List.find?_eq_some_iff_append.mp found
    have rising := Condition.inPriority_rising
    have mem := x.mem_inPriority
    rw [split, List.pairwise_append, List.pairwise_cons] at rising
    rw [split, List.mem_append, List.mem_cons] at mem
    have same : x = y := by
      rcases mem with first | same | later
      · simpa [pending] using earlier x first
      · exact same
      · exact absurd (smallest y here) (Nat.not_le.mpr (rising.2.1.1 x later))
    rw [Call.statusCode, found, same]

/-! ### FREEZE, THAW, unknown kinds, RETRAIN and CLEAR (R33, R99 to R103, R117) -/

section Controls

variable {s : State} {i : CtxNum} {e : ControlEntry} {c : Call}
  (job : s.engine.job = some { context := i, entry := .control e }) (live : s.contexts[i] = .live c)

include job live

theorem exec_freeze_of_live (kind : e.kind = 1) : exec .freeze s = .next (State.freezeOutcome i e.bytes c s.endJob).takeNext :=
  congrArg Host.Outcome.next (State.completeControl_of_live State.freezeOutcome job (beq_iff_eq.mpr kind) live)

theorem exec_thaw_of_live (kind : e.kind = 2) : exec .thaw s = .next (State.thawOutcome i e.bytes c s.endJob).takeNext :=
  congrArg Host.Outcome.next (State.completeControl_of_live State.thawOutcome job (beq_iff_eq.mpr kind) live)

theorem exec_unknownControl_of_live (kind : isUnknownKind e.kind = true) :
    exec .unknownControl s = .next s.endJob.takeNext :=
  congrArg Host.Outcome.next (State.completeControl_of_live (fun _ _ _ t => t) job kind live)

theorem exec_retrain_of_live (kind : e.kind = 3) :
    exec .retrain s = .next (State.retrainOutcome i e.bytes c s.endJob).takeNext :=
  congrArg Host.Outcome.next (State.completeControl_of_live State.retrainOutcome job (beq_iff_eq.mpr kind) live)

theorem exec_clear_of_live (kind : e.kind = 6) : exec .clear s = .next (State.clearOutcome i e.bytes c s.endJob).takeNext :=
  congrArg Host.Outcome.next (State.completeControl_of_live State.clearOutcome job (beq_iff_eq.mpr kind) live)

theorem exec_farDelay_of_live (kind : e.kind = 4) :
    exec .farDelay s = .next (State.farDelayOutcome i e.bytes c s.endJob).takeNext :=
  congrArg Host.Outcome.next (State.completeControl_of_live State.farDelayOutcome job (beq_iff_eq.mpr kind) live)

theorem exec_farOff_of_live (kind : e.kind = 5) :
    exec .farOff s = .next (State.farOffOutcome i e.bytes c s.endJob).takeNext :=
  congrArg Host.Outcome.next (State.completeControl_of_live State.farOffOutcome job (beq_iff_eq.mpr kind) live)

end Controls

/-- Settles O43. -/
theorem freezeThawAndUnknownControls : Obligations.FreezeThawAndUnknownControls := by
  intro s i e c job live
  refine ⟨exec_freeze_of_live job live, exec_thaw_of_live job live, fun unknown => exec_unknownControl_of_live job live ?_⟩
  simpa [isUnknownKind] using unknown

theorem zeroed_eq_replicate (taps : List Tap) : zeroed taps = List.replicate taps.length ⟨0, 0⟩ := List.map_const' ..

/-- Settles O44: the restart and the zeroing stand in the call that the abort of an export, if one runs, latches in. -/
theorem retrainRestartsTheSchedule : Obligations.RetrainRestartsTheSchedule := by
  intro s i e c job kind live
  refine ⟨_, exec_retrain_of_live job live kind, fun none => ?_, fun running => ?_⟩ <;>
    simp only [← zeroed_eq_replicate] <;> rw [Call.retrain, Call.abortExport_eq]
  · exact if_neg (show ¬c.exportRun.isSome = true by simp [none])
  · exact if_pos (show c.exportRun.isSome = true from running)

/-- The mask of a CLEAR names a condition by the bit of its code. -/
theorem maskParameter_getLsbD (b : Vector Byte 17) {n : Nat} (h : n < 19) :
    (maskParameter b).getLsbD n = (b[0] ++ b[1] ++ b[2]).getLsbD n := by
  simp [maskParameter, h]

theorem maskParameter_diverged (b : Vector Byte 17) : (maskParameter b).getLsbD 0 = b[2].getLsbD 0 := by
  rw [maskParameter_getLsbD b (by decide), BitVec.getLsbD_append]
  rfl

/-- Settles O47. -/
theorem clearRemovesTheNamedConditions : Obligations.ClearRemovesTheNamedConditions := by
  intro s i e c job kind live
  refine ⟨_, exec_clear_of_live job live kind, ?_, fun x => ?_⟩
  · simp only [Call.clear, maskParameter_diverged]
    cases e.bytes[2].getLsbD 0 <;> simp
  · have range := x.code_range
    rw [Call.isPending_clear, maskParameter_getLsbD _ (by omega)]

/-! ### FAR_OFF (R70) -/

/-- Settles O46. -/
theorem farOffReturnsThePages : Obligations.FarOffReturnsThePages := by
  intro s i e c job kind live ended
  have run := exec_farOff_of_live job live kind
  refine ⟨fun none => ?_, fun d waiting => ?_, fun r held => ?_⟩ <;> rw [run]
  · rcases none with far | far <;> simp only [State.farOffOutcome, far] <;> rfl
  · simp only [State.farOffOutcome, waiting]
    rfl
  · rcases held with far | far <;> simp only [State.farOffOutcome, far] <;> rfl

/-! ### FAR_DELAY (R62, R65 to R69) -/

theorem delayParameter_eq (b : Vector Byte 17) : delayParameter b = (b[0] ++ b[1]).toNat % 4096 := by
  simp [delayParameter]

theorem Call.farDelayTaken_iff (c : Call) (delay : Nat) :
    c.farDelayTaken delay = true ↔ c.far ≠ .absent ∧ delay + c.settings.nf ≤ 4096 := by
  simp [Call.farDelayTaken]

section FarDelay

variable {s : State} {i : CtxNum} {b : Vector Byte 17} {c : Call}

theorem State.farDelayOutcome_of_refused (refused : c.far = .absent ∨ 4096 < delayParameter b + c.settings.nf) :
    State.farDelayOutcome i b c s = s.setContext i (.live (c.latch .farRefused)) := by
  refine if_neg (mt (c.farDelayTaken_iff _).mp fun ⟨present, fits⟩ => ?_)
  rcases refused with absent | beyond
  · exact present absent
  · omega

theorem State.farDelayOutcome_of_taken (present : c.far ≠ .absent) (fits : delayParameter b + c.settings.nf ≤ 4096) :
    State.farDelayOutcome i b c s = s.takeFarDelay i c (delayParameter b) :=
  if_pos ((c.farDelayTaken_iff _).mpr ⟨present, fits⟩)

/-- A request is granted at once when no one waits and the pages are there. -/
theorem State.requestPages_of_free (delay : Nat) {need : Nat} (empty : s.history.waitList = [])
    (enough : need ≤ s.history.freePages.length) : s.requestPages i c delay need =
      (s.setContext i (.live (c.withFar (.filling (.granted delay (s.history.freePages.take need)))))).withHistory
        { s.history with freePages := s.history.freePages.drop need } :=
  if_pos (by simp [empty, enough])

theorem State.requestPages_of_wait (delay : Nat) {need : Nat}
    (short : s.history.waitList ≠ [] ∨ s.history.freePages.length < need) : s.requestPages i c delay need =
      (s.setContext i (.live ((c.withFar (.waiting delay)).latch .farWaiting))).withWaitList
        (s.history.waitList ++ [(i, need)]) := by
  refine if_neg ?_
  rcases short with waits | short
  · simp [waits]
  · simp [Nat.not_le.mpr short]

end FarDelay

/-- Settles O45: by the far state; a request is granted or waits, a section with enough pages keeps them, and one with too
few exchanges them. -/
theorem farDelayTakesKeepsOrRefuses : Obligations.FarDelayTakesKeepsOrRefuses := by
  intro s i e c job kind live
  rw [← delayParameter_eq, ← zeroed_eq_replicate]
  intro d need zeros ended
  rw [exec_farDelay_of_live job live kind]
  have answer {t u : State} (h : t = u) : (.next t.takeNext : Host.Outcome State Fault Refusal) = .next u.takeNext := by
    rw [h]
  have taken {far : FarSection} (hf : c.far = far) (present : far ≠ .absent) (fits : d + c.settings.nf ≤ 4096) :
      State.farDelayOutcome i e.bytes c s.endJob = s.endJob.takeFarDelay i c d :=
    State.farDelayOutcome_of_taken (hf ▸ present) fits
  refine ⟨fun refused => ?_, fun far fits empty enough => ?_, fun far fits short => ?_, fun r far fits enough => ?_,
    fun r far fits enough small => ?_, fun r far fits enough covered => ?_, fun r far fits few => ?_, fun d' far fits => ?_⟩
  · rw [State.farDelayOutcome_of_refused refused]
    rfl
  · rw [taken far (by simp) fits]
    simp only [State.takeFarDelay, far]
    exact answer (State.requestPages_of_free (s := s.endJob) d empty enough)
  · rw [taken far (by simp) fits]
    simp only [State.takeFarDelay, far]
    exact answer (State.requestPages_of_wait (s := s.endJob) d short)
  · rw [taken far (by simp) fits]
    simp only [State.takeFarDelay, far]
    exact answer (if_pos enough)
  · rw [taken far (by simp) fits]
    simp only [State.takeFarDelay, far]
    refine answer ((if_pos enough).trans ((if_neg (Nat.not_le.mpr small)).trans ?_))
    rw [Call.keepPages, Ring.redelayed, if_neg (Nat.not_le.mpr small)]
    rfl
  · rw [taken far (by simp) fits]
    simp only [State.takeFarDelay, far]
    refine answer ((if_pos enough).trans ((if_pos covered).trans ?_))
    rw [Call.keepPages, Ring.redelayed, if_pos covered]
    rfl
  · rcases far with far | far <;> rw [taken far (by simp) fits] <;> simp only [State.takeFarDelay, far] <;>
      exact answer (if_neg (Nat.not_le.mpr few))
  · rw [taken far (by simp) fits]
    simp only [State.takeFarDelay, far]
    rfl

/-! ### The upstream write (R123, R124, R136 to R138) -/

theorem exec_upstreamWrite_of_owner {s : State} {lane : Lane} {i : CtxNum} {c : Call} (active : s.loader.station = .active)
    (mark : s.highway.lapsed = false) (owner : s.owner lane = some (i, c)) : exec (.upstreamWrite lane) s =
      .next ((s.setContext i (.live c.upstreamChoice.2)).withHighway
        { s.highway with upstreamHalf := some { lane := lane, bytes := c.upstreamChoice.1.bytes } }) := by
  simp only [exec, execUpstreamWrite, State.onHighway_of_active active mark, owner, if_true]

section Choice

variable {c : Call}

theorem Call.upstreamChoice_of_result {r : ResultEntry} {rest : List ResultEntry} (queue : c.outputQueue = r :: rest) :
    c.upstreamChoice = (.result c.codeByte r, { c with outputQueue := rest }) := by
  simp only [Call.upstreamChoice, queue]

variable (queue : c.outputQueue = [])

include queue

theorem Call.upstreamChoice_of_status (due : c.statusDue = true) :
    c.upstreamChoice = (c.statusRecord, { c with statusDue := false }) := by
  simp only [Call.upstreamChoice, queue, due, if_true]

variable (due : c.statusDue = false)

include due

theorem Call.upstreamChoice_of_segment {x : ExportRecord} (running : c.exportRun = some x) :
    c.upstreamChoice = (c.segmentRecord x, c.afterSegment x) := by
  simp only [Call.upstreamChoice, queue, due, running, Bool.false_eq_true, if_false]

theorem Call.upstreamChoice_of_idle (none : c.exportRun = none) : c.upstreamChoice = (.idle c.codeByte, c) := by
  simp only [Call.upstreamChoice, queue, due, none, Bool.false_eq_true, if_false]

end Choice

/-- Settles O50: the order of the choice is the order of the cases. -/
theorem upstreamWriteChoosesOneRecord : Obligations.UpstreamWriteChoosesOneRecord := by
  refine ⟨fun s lane i c active mark hc hl only => ?_, fun s lane unowned => ?_⟩
  · intro code answer
    rw [exec_upstreamWrite_of_owner active mark (State.owner_of_only hc hl only)]
    have written {d : Call} {r : UpstreamRecord} (choice : c.upstreamChoice = (r, d)) :
        (Host.Outcome.next ((s.setContext i (.live c.upstreamChoice.2)).withHighway
          { s.highway with upstreamHalf := some { lane := lane, bytes := c.upstreamChoice.1.bytes } }) :
          Host.Outcome State Fault Refusal) = .next (answer d r) := by
      rw [choice]
      rfl
    exact ⟨fun r rest queue => written (Call.upstreamChoice_of_result queue),
      fun queue due => written (Call.upstreamChoice_of_status queue due),
      fun x queue due running => written (Call.upstreamChoice_of_segment queue due running),
      fun queue due none => written (Call.upstreamChoice_of_idle queue due none)⟩
  · simp only [exec, execUpstreamWrite, State.owner_eq_none.mpr unowned, ite_self]
    rfl

/-! ### No command stops (R95) -/

theorem State.currentPhase_isSome {s : State} (cursors : s.CursorsInRange) {i : CtxNum} {c : Call}
    (hc : s.contexts[i] = .live c) : (s.currentPhase c).isSome = true := by
  obtain ⟨phases, present, bound⟩ := cursors i c (by rw [hc]; rfl)
  simp only [State.currentPhase, present, List.getElem?_eq_getElem bound, Option.map_some, Option.isSome_some]

theorem exec_sampleEntryCompletion_next {s : State} (cursors : s.CursorsInRange) :
    ∃ t, exec .sampleEntryCompletion s = .next t := by
  simp only [exec, execSampleEntryCompletion]
  split
  next i e =>
    split
    next c hc =>
      obtain ⟨⟨ph, n⟩, current⟩ := Option.isSome_iff_exists.mp (State.currentPhase_isSome cursors hc)
      rw [current]
      exact ⟨_, rfl⟩
    all_goals exact ⟨_, rfl⟩
  all_goals exact ⟨_, rfl⟩

/-- Settles O51: only the completion of a SAMPLE entry can stop, and does not where the cursor names a phase; every branch of
the other commands answers a next state. -/
theorem noCommandStops : Obligations.NoCommandStops := by
  intro s c cursors
  cases c with
  | sampleEntryCompletion => exact exec_sampleEntryCompletion_next cursors
  | _ =>
    simp only [exec, execResetPinAsserted, execResetPinReleased, execSignatureBlockRead, execHeadersRead,
      execScheduleTableRead, execProfileTableRead, execFrameMark, execMissingFrameMark, execHeaderComplete,
      execWatchTimerExpiry, execRoundStart, execRoundOutcome, execSampleArrival, execControlArrival, execAnnounce,
      execRelease, execIdleArrival, execFreeze, execThaw, execRetrain, execFarDelay, execFarOff, execClear, execExport,
      execImport, execUnknownControl, execUpstreamWrite]
    repeat' split
    all_goals exact ⟨_, rfl⟩

end Sys2Proof.Machine
end

section
/-! The exact arithmetic: rounding, saturation, the leak, and the replica with its residual (R37 to R47, R88). -/

namespace Sys2Proof.Machine

/-! ### Rounding and saturation (R38, R39) -/

/-- Rounding is the floor of the value plus a half. -/
theorem roundShift_bounds (shift : Nat) (v : Int) :
    roundShift shift v * 2 ^ shift ≤ v + 2 ^ (shift - 1) ∧ v + 2 ^ (shift - 1) < (roundShift shift v + 1) * 2 ^ shift :=
  have positive : (0 : Int) < 2 ^ shift := by positivity
  ⟨Int.ediv_mul_le _ positive.ne', Int.lt_ediv_add_one_mul_self _ positive⟩

theorem saturate_24_i (v : CInt) : (saturate 24 v).i.toInt = max (-8388608) (min 8388607 v.i) :=
  toInt_ofInt_clampTo (by decide) v.i

theorem saturate_24_q (v : CInt) : (saturate 24 v).q.toInt = max (-8388608) (min 8388607 v.q) :=
  toInt_ofInt_clampTo (by decide) v.q

/-- Settles O33. -/
theorem roundingAndSaturation : Obligations.RoundingAndSaturation :=
  ⟨fun shift v _ => roundShift_bounds shift v, fun v => ⟨saturate_16_i v, saturate_16_q v, clamps_16_iff v⟩,
    fun v => ⟨saturate_24_i v, saturate_24_q v, clamps_24_iff v⟩⟩

/-! ### The leak (R88) -/

/-- With a half `h` of the divisor the rounded quotient lies between 0 and the value, and is 0 within the half. -/
theorem roundedQuotient_bounds {h : Int} (positive : 1 ≤ h) (v : Int) :
    (0 ≤ v → 0 ≤ (v + h) / (2 * h) ∧ (v + h) / (2 * h) ≤ v) ∧ (v ≤ 0 → v ≤ (v + h) / (2 * h) ∧ (v + h) / (2 * h) ≤ 0) ∧
    (-h ≤ v → v ≤ h - 1 → (v + h) / (2 * h) = 0) := by
  have divisor : 0 < 2 * h := by omega
  refine ⟨fun sign => ⟨Int.ediv_nonneg (by omega) divisor.le, ?_⟩, fun sign => ⟨?_, ?_⟩, fun low high => ?_⟩
  · rw [← Int.lt_add_one_iff, Int.ediv_lt_iff_lt_mul divisor]
    nlinarith
  · rw [Int.le_ediv_iff_mul_le divisor]
    nlinarith
  · rw [← Int.lt_add_one_iff, Int.ediv_lt_iff_lt_mul divisor]
    omega
  · exact Int.ediv_eq_zero_of_lt (by omega) (by omega)

/-- Settles O38: with a leak the part loses its rounded quotient by 2^L, twice the half 2^(L−1). -/
theorem leakMovesTowardsZero : Obligations.LeakMovesTowardsZero := by
  intro leak v _
  rcases Nat.eq_zero_or_pos leak with rfl | positive
  · have kept : leakPart 0 v = v := if_pos rfl
    rw [kept]
    exact ⟨fun h => ⟨h, le_rfl⟩, fun h => ⟨le_rfl, h⟩, fun _ => rfl, fun h => absurd h (by decide), fun _ _ _ => rfl⟩
  · have leaked : leakPart leak v = v - (v + 2 ^ (leak - 1)) / 2 ^ leak := if_neg positive.ne'
    have double : (2 : Int) ^ leak = 2 * 2 ^ (leak - 1) := by
      rw [← pow_succ', Nat.sub_add_cancel positive]
    obtain ⟨above, below, within⟩ := roundedQuotient_bounds (h := 2 ^ (leak - 1)) (one_le_pow₀ (by decide)) v
    rw [← double] at above below within
    refine ⟨fun h => ?_, fun h => ?_, fun h => absurd h positive.ne', fun _ => leaked, fun _ low high => ?_⟩
    · obtain ⟨nonneg, le⟩ := above h
      omega
    · obtain ⟨ge, nonpos⟩ := below h
      omega
    · rw [leaked, within low high, sub_zero]

/-! ### The replica and the residual (R44 to R47) -/

/-- A replica is the clamp of the rounded sums over any ranges that cover the line and the window. -/
theorem replica_eq {near far : List Tap} {line window : List Sample} {n m : Nat} (hn : line.length ≤ n)
    (hm : window.length ≤ m) : replica near line far window = saturate 16
      ⟨(filterSumI near line n + filterSumI far window m + 2097152) / 4194304,
        (filterSumQ near line n + filterSumQ far window m + 2097152) / 4194304⟩ := by
  rw [replica, dot_eq hn, dot_eq hm]
  rfl

theorem Progress.farWindow_of_active {p : Progress} {r : Ring} (h : p.call.far = .active r) :
    p.farWindow = r.window p.cells p.call.settings.nf := by
  simp only [Progress.farWindow, h]

theorem Progress.farWindow_of_not_active {p : Progress} (h : ∀ r, p.call.far ≠ .active r) : p.farWindow = [] := by
  unfold Progress.farWindow
  split
  next r active => exact absurd active (h r)
  all_goals rfl

theorem Progress.values_y0 (p : Progress) (e : SampleEntry) : (p.values e).y0 = replica
    (p.call.nearTaps.take p.call.settings.nn) p.call.nearLine (p.call.farTaps.take p.call.settings.nf) p.farWindow := rfl

theorem Progress.values_y1 (p : Progress) (e : SampleEntry) : (p.values e).y1 = replica
    (p.call.nearTaps.drop p.call.settings.nn) p.call.nearLine (p.call.farTaps.drop p.call.settings.nf) p.farWindow := rfl

theorem Progress.values_residualClamped_iff (p : Progress) (e : SampleEntry) : (p.values e).residualClamped = true ↔
    clamps 16 (e.r0.toCInt.sub (p.values e).y0.toCInt) = true ∨ clamps 16 (e.r1.toCInt.sub (p.values e).y1.toCInt) = true :=
  Bool.or_eq_true_iff

/-- Settles O31: the replica parts are clamps of the rounded sums, and the residual parts clamps of the differences. -/
theorem replicaAndResidual : Obligations.ReplicaAndResidual := by
  intro p e line _ _ v nn nf
  have covers : p.call.nearLine.length ≤ nn := line.le
  have y0 : v.y0 = _ := (p.values_y0 e).trans (replica_eq covers (le_refl nf))
  have y1 : v.y1 = _ := (p.values_y1 e).trans (replica_eq covers (le_refl nf))
  refine ⟨fun r active => ⟨p.farWindow_of_active active, p.farWindow_length active⟩, p.farWindow_of_not_active,
    by rw [y0, saturate_16_i], by rw [y0, saturate_16_q], by rw [y1, saturate_16_i], by rw [y1, saturate_16_q],
    saturate_16_i _, saturate_16_q _, saturate_16_i _, saturate_16_q _, ?_⟩
  rw [p.values_residualClamped_iff, clamps_16_iff, clamps_16_iff]
  simp only [List.exists_mem_cons_iff, List.not_mem_nil, false_and, exists_false, or_false, or_assoc]
  rfl

end Sys2Proof.Machine
end

section
/-! The ring of a far section: what several writes leave, and what the window reads (R71 to R73). -/

namespace Sys2Proof.Machine

/-! ### Ring writes (R72) -/

/-- Counting around a ring of `n`. -/
theorem succ_mod_eq {n : Nat} (positive : 0 < n) (a : Nat) : (a + 1) % n = if a % n + 1 = n then 0 else a % n + 1 := by
  have bound := Nat.mod_lt a positive
  rw [← Nat.mod_add_mod]
  split
  next last => rw [last, Nat.mod_self]
  next => exact Nat.mod_eq_of_lt (by omega)

section Ring

variable (r : Ring)

theorem Ring.putAll_concat (xs : List Sample) (x : Sample) (cells : List (Nat × Sample)) :
    r.putAll (xs ++ [x]) cells =
      ((r.putAll xs cells).1.advance, (r.putAll xs cells).1.put (r.putAll xs cells).2 x) := by
  simp [Ring.putAll]

/-- Writes move the write index and the fill count alone. -/
theorem Ring.putAll_kept (xs : List Sample) (cells : List (Nat × Sample)) :
    (r.putAll xs cells).1.delay = r.delay ∧ (r.putAll xs cells).1.pages = r.pages := by
  induction xs using List.reverseRecOn with
  | nil => exact ⟨rfl, rfl⟩
  | append_singleton xs x ih => rwa [Ring.putAll_concat]

theorem Ring.putAll_length (xs : List Sample) (cells : List (Nat × Sample)) :
    (r.putAll xs cells).1.length = r.length := by
  rw [Ring.length, (r.putAll_kept xs cells).2, Ring.length]

variable {r}

/-- The write index goes around the ring. -/
theorem Ring.putAll_writeIndex (inside : r.writeIndex < r.length) (xs : List Sample) (cells : List (Nat × Sample)) :
    (r.putAll xs cells).1.writeIndex = (r.writeIndex + xs.length) % r.length := by
  induction xs using List.reverseRecOn with
  | nil => exact (Nat.mod_eq_of_lt inside).symm
  | append_singleton xs x ih =>
    rw [Ring.putAll_concat, Ring.advance, Ring.putAll_length, ih, List.length_append, List.length_singleton, ← Nat.add_assoc]
    exact (succ_mod_eq (Nat.zero_lt_of_lt inside) _).symm

/-- The fill count rises to the ring length. -/
theorem Ring.putAll_fill (inside : r.fill ≤ r.length) (xs : List Sample) (cells : List (Nat × Sample)) :
    (r.putAll xs cells).1.fill = min (r.fill + xs.length) r.length := by
  induction xs using List.reverseRecOn with
  | nil => exact (Nat.min_eq_left inside).symm
  | append_singleton xs x ih =>
    rw [Ring.putAll_concat, Ring.advance, Ring.putAll_length, ih, List.length_append, List.length_singleton]
    dsimp only
    split <;> omega

end Ring

/-! ### Addresses (R71) -/

section Address

variable {r : Ring}

theorem Ring.address_eq_some {i a : Nat} (h : r.address i = some a) : ∃ p ∈ r.pages, a / 64 = p.val := by
  obtain ⟨p, hp, rfl⟩ := Option.map_eq_some_iff.mp h
  exact ⟨p, List.mem_of_getElem? hp, by simp only [Config.pageSize]; omega⟩

/-- Two indexes of a ring whose pages differ denote two positions. -/
theorem Ring.address_injective (nodup : r.pages.Nodup) {i j a : Nat} (hi : r.address i = some a)
    (hj : r.address j = some a) : i = j := by
  obtain ⟨p, hp, ei⟩ := Option.map_eq_some_iff.mp hi
  obtain ⟨q, hq, ej⟩ := Option.map_eq_some_iff.mp hj
  simp only [Config.pageSize] at *
  obtain rfl : p = q := Fin.ext (by omega)
  obtain ⟨bound, hp⟩ := List.getElem?_eq_some_iff.mp hp
  obtain ⟨_, hq⟩ := List.getElem?_eq_some_iff.mp hq
  have page : i / 64 = j / 64 := (List.Nodup.getElem_inj_iff nodup).mp (hp.trans hq.symm)
  omega

theorem Ring.symbol_put_self {i : Nat} (inside : r.writeIndex < r.length) (here : i = r.writeIndex)
    (cells : List (Nat × Sample)) (x : Sample) : r.symbol (r.put cells x) i = x := by
  obtain ⟨a, ha⟩ := Option.isSome_iff_exists.mp (r.address_isSome inside)
  simp only [Ring.symbol, Ring.put, here, ha, symbolAt, cellsRead_write_self, Option.getD_some]

theorem Ring.symbol_put_of_ne (nodup : r.pages.Nodup) {i : Nat} (other : i ≠ r.writeIndex)
    (cells : List (Nat × Sample)) (x : Sample) : r.symbol (r.put cells x) i = r.symbol cells i := by
  unfold Ring.symbol Ring.put
  split
  next a ha =>
    split
    next b hb =>
      have ne : a ≠ b := by
        rintro rfl
        exact other (Ring.address_injective nodup ha hb)
      rw [symbolAt, cellsRead_write_of_ne _ _ ne, symbolAt]
    next => rfl
  next => rfl

theorem Ring.symbol_congr {t : Ring} (pages : t.pages = r.pages) (cells : List (Nat × Sample)) (i : Nat) :
    t.symbol cells i = r.symbol cells i := by
  simp only [Ring.symbol, Ring.address, pages]

theorem Ring.window_getElem? (r : Ring) (cells : List (Nat × Sample)) {nf k : Nat} (hk : k < nf) :
    (r.window cells nf)[k]? =
      some (r.symbol cells (((r.latestIndex : Int) - (r.delay : Int) - (k : Int)) % (r.length : Int)).toNat) := by
  simp [Ring.window, ← List.map_eq_flatMap, hk]

end Address

/-! ### What the ring holds after its grant (R72, R73) -/

section Granted

variable {delay : Nat} {pages : List Page} (nodup : pages.Nodup) (held : 0 < 64 * pages.length)

include held in
theorem Ring.granted_putAll_writeIndex (xs : List Sample) (cells : List (Nat × Sample)) :
    ((Ring.granted delay pages).putAll xs cells).1.writeIndex = xs.length % (64 * pages.length) := by
  rw [Ring.putAll_writeIndex (r := .granted delay pages) held]
  simp [Ring.granted, Ring.length, Config.pageSize]

include nodup held in
/-- The ring still holds each symbol that fewer than a ring length of others have followed. -/
theorem Ring.granted_putAll_symbol (xs : List Sample) (cells : List (Nat × Sample)) {j : Nat} (written : j < xs.length)
    (recent : xs.length ≤ j + 64 * pages.length) :
    ((Ring.granted delay pages).putAll xs cells).1.symbol ((Ring.granted delay pages).putAll xs cells).2
      (j % (64 * pages.length)) = xs[j] := by
  induction xs using List.reverseRecOn with
  | nil => cases written
  | append_singleton xs x ih =>
    have index := Ring.granted_putAll_writeIndex (delay := delay) held xs cells
    obtain ⟨-, kept⟩ := (Ring.granted delay pages).putAll_kept xs cells
    have length := (Ring.granted delay pages).putAll_length xs cells
    rw [Ring.putAll_concat]
    generalize (Ring.granted delay pages).putAll xs cells = w at *
    rw [List.length_append, List.length_singleton] at written recent
    have advanced := Ring.symbol_congr (r := w.1) (t := w.1.advance) rfl (w.1.put w.2 x) (j % (64 * pages.length))
    refine advanced.trans ?_
    by_cases last : j = xs.length
    · subst last
      rw [Ring.symbol_put_self (by rw [index, length]; exact Nat.mod_lt _ held) index.symm]
      simp
    · have old : j < xs.length := by omega
      have other : j % (64 * pages.length) ≠ w.1.writeIndex := by
        rw [index]
        intro same
        have divides : 64 * pages.length ∣ xs.length - j := (Nat.modEq_iff_dvd' old.le).mp same
        have := Nat.le_of_dvd (by omega) divides
        omega
      rw [Ring.symbol_put_of_ne (by rwa [kept]) other, ih old (by omega), List.getElem_append_left old]

end Granted

/-- Settles O30: the window reads the index of the symbol written D + k before the last, around the ring. -/
theorem farWindowIsTheDelayedSymbols : Obligations.FarWindowIsTheDelayedSymbols := by
  intro delay nf pages cells xs nodup fits one enough k hk
  have held : 0 < 64 * pages.length := by omega
  have index := Ring.granted_putAll_writeIndex (delay := delay) held xs cells
  have symbol := Ring.granted_putAll_symbol (delay := delay) nodup held xs cells (j := xs.length - 1 - (delay + k))
    (by omega) (by omega)
  obtain ⟨kept, -⟩ := (Ring.granted delay pages).putAll_kept xs cells
  have length := (Ring.granted delay pages).putAll_length xs cells
  generalize (Ring.granted delay pages).putAll xs cells = w at *
  have latest : w.1.latestIndex = (xs.length - 1) % (64 * pages.length) := by
    have around := succ_mod_eq held (xs.length - 1)
    rw [show xs.length - 1 + 1 = xs.length by omega] at around
    rw [Ring.latestIndex, index, length, Ring.length, around]
    simp only [Ring.granted, Config.pageSize]
    by_cases last : (xs.length - 1) % (64 * pages.length) + 1 = 64 * pages.length
    · rw [if_pos last, if_pos rfl]
      omega
    · rw [if_neg last, if_neg (Nat.succ_ne_zero _), Nat.add_sub_cancel]
  have read : (((w.1.latestIndex : Int) - (w.1.delay : Int) - (k : Int)) % (w.1.length : Int)).toNat =
      (xs.length - 1 - (delay + k)) % (64 * pages.length) := by
    rw [latest, kept, length, Int.natCast_emod, sub_sub, sub_eq_add_neg]
    simp only [Ring.granted, Ring.length, Config.pageSize]
    rw [Int.emod_add_emod, ← sub_eq_add_neg, ← Nat.cast_add, ← Nat.cast_sub (by omega), ← Int.natCast_emod, Int.toNat_natCast]
  rw [w.1.window_getElem? w.2 hk, read, symbol, List.getElem?_reverse (by omega), List.getElem?_eq_getElem]

end Sys2Proof.Machine
end

section
/-! A SAMPLE entry: its history stages, and the frame of its completion (R25 to R31, R42, R53, R72, R76, R90). -/

namespace Sys2Proof.Machine

/-! ### Stage 12 (R17, R31) -/

/-- Settles O40. -/
theorem resultEntersTheOutputQueue : Obligations.ResultEntersTheOutputQueue := by
  refine fun p v => ⟨fun room => Progress.result_of_lt room, fun head rest queue three => ?_⟩
  rw [Progress.result_of_full (by rw [queue, List.length_cons, three]), queue]
  rfl

/-! ### Lines (R27, R42, R76) -/

/-- A value that leaves a list cut short anyway may leave it before. -/
theorem take_append_take {α : Type} (n : Nat) (xs ys : List α) : (xs ++ ys.take n).take n = (xs ++ ys).take n := by
  simp [List.take_append, List.take_take]

theorem shiftIn_take {α : Type} (x : α) (n : Nat) (line : List α) (length : (line.take n).length = n) :
    shiftIn x (line.take n) = (x :: line).take n := by
  rw [shiftIn, length]
  exact take_append_take n [x] line

theorem shiftZeros_eq (n : Nat) (line : List Sample) :
    shiftZeros n line = (List.replicate n Cplx.zero ++ line).take line.length := by
  induction n generalizing line with
  | zero => simp [shiftZeros]
  | succ n ih =>
    rw [shiftZeros, ih, length_shiftIn, shiftIn, take_append_take, List.replicate_succ', List.append_assoc,
      List.singleton_append]

/-- One symbol after `n` values (0, 0). -/
theorem shiftIn_shiftZeros (x : Sample) (n : Nat) (line : List Sample) : shiftIn x (shiftZeros n line) =
    (x :: (List.replicate n Cplx.zero ++ line)).take line.length := by
  rw [shiftZeros_eq]
  exact shiftIn_take _ _ _ (by simp)

theorem shiftIn_shiftIn_shiftZeros (x y : Sample) (n : Nat) (line : List Sample) :
    shiftIn y (shiftIn x (shiftZeros n line)) =
      (y :: x :: (List.replicate n Cplx.zero ++ line)).take line.length := by
  rw [shiftIn_shiftZeros]
  exact shiftIn_take _ _ _ (by simp; omega)

/-! ### The ring writes of stages 1 and 2 (R72) -/

theorem Ring.fill_le_advance (r : Ring) : r.fill ≤ r.advance.fill := by
  simp only [Ring.advance]
  split <;> omega

/-- Ring writes, at least one, that took the ring `r` of a call to `w`: a FILLING section is ACTIVE, with FAR_ACTIVE noted,
once the fill count covers D + Nf. -/
structure Progress.Wrote (p q : Progress) (r : Ring) (w : Ring × List (Nat × Sample)) : Prop where
  cells : q.cells = w.2
  nf : q.call.settings.nf = p.call.settings.nf
  delay : w.1.delay = r.delay
  far : q.call.far = if p.call.far = .filling r ∧ w.1.fill < r.delay + p.call.settings.nf then .filling w.1 else .active w.1
  noted : .farActive ∈ q.latched ↔
    .farActive ∈ p.latched ∨ p.call.far = .filling r ∧ r.delay + p.call.settings.nf ≤ w.1.fill

section Wrote

variable {p q : Progress} {r : Ring} {w : Ring × List (Nat × Sample)}

/-- A FILLING section that takes a write. -/
theorem Progress.writeRing_of_filling (far : p.call.far = .filling r) (x : Sample) : p.writeRing x =
    if r.delay + p.call.settings.nf ≤ r.advance.fill then
      { call := p.call.withFar (.active r.advance), cells := r.put p.cells x, latched := p.latched ++ [.farActive] }
    else { p with call := p.call.withFar (.filling r.advance), cells := r.put p.cells x } := by
  simp only [Progress.writeRing, far]

theorem Progress.writeRing_of_active (far : p.call.far = .active r) (x : Sample) :
    p.writeRing x = { p with call := p.call.withFar (.active r.advance), cells := r.put p.cells x } := by
  simp only [Progress.writeRing, far]

theorem Progress.wrote_one (holds : p.call.far = .filling r ∨ p.call.far = .active r) (x : Sample) :
    p.Wrote (p.writeRing x) r (r.advance, r.put p.cells x) := by
  rcases holds with far | far
  · rw [Progress.writeRing_of_filling far]
    split
    next covered => exact ⟨rfl, rfl, rfl, by simp [far, covered, Call.withFar], by simp [far, covered]⟩
    next small => exact ⟨rfl, rfl, rfl, by simp [far, not_le.mp small, Call.withFar], by simp [far, small]⟩
  · rw [Progress.writeRing_of_active far]
    exact ⟨rfl, rfl, rfl, by simp [far, Call.withFar], by simp [far]⟩

/-- One more write. -/
theorem Progress.Wrote.writeRing (h : p.Wrote q r w) (x : Sample) : p.Wrote (q.writeRing x) r (w.1.advance, w.1.put w.2 x) := by
  obtain ⟨cells, nf, delay, far, noted⟩ := h
  have rising := w.1.fill_le_advance
  by_cases waits : p.call.far = .filling r ∧ w.1.fill < r.delay + p.call.settings.nf
  · rw [if_pos waits] at far
    obtain ⟨filling, small⟩ := waits
    rw [Progress.writeRing_of_filling far, nf, delay, cells]
    split
    next covered =>
      exact ⟨rfl, nf, delay, by simp [covered, Call.withFar], by simp [filling, covered]⟩
    next short =>
      refine ⟨rfl, nf, delay, by simp [filling, not_le.mp short, Call.withFar], ?_⟩
      rw [noted]
      simp only [filling, true_and, short, not_le.mpr small]
  · rw [if_neg waits] at far
    rw [Progress.writeRing_of_active far, cells]
    have covered (h : p.call.far = .filling r) : r.delay + p.call.settings.nf ≤ w.1.fill :=
      not_lt.mp fun small => waits ⟨h, small⟩
    refine ⟨rfl, nf, delay, ?_, ?_⟩
    · rw [if_neg fun h => absurd (covered h.1) (not_le.mpr (rising.trans_lt h.2))]
      rfl
    · rw [noted]
      refine or_congr_right (and_congr_right fun h => ?_)
      have := covered h
      exact iff_of_true this (this.trans rising)

/-- What a stage does to other fields plays no part. -/
theorem Progress.Wrote.congr (h : p.Wrote q r w) {t : Progress} (cells : t.cells = q.cells)
    (settings : t.call.settings = q.call.settings) (far : t.call.far = q.call.far)
    (noted : .farActive ∈ t.latched ↔ .farActive ∈ q.latched) : p.Wrote t r w :=
  ⟨cells.trans h.cells, by rw [settings, h.nf], h.delay, far.trans h.far, noted.trans h.noted⟩

theorem Progress.writeZeros_succ (n : Nat) (p : Progress) :
    Progress.writeZeros (n + 1) p = (Progress.writeZeros n p).writeRing Cplx.zero := by
  induction n generalizing p with
  | zero => rfl
  | succ n ih => exact ih _

theorem Progress.writeZeros_wrote (holds : p.call.far = .filling r ∨ p.call.far = .active r) (n : Nat) :
    p.Wrote (Progress.writeZeros (n + 1) p) r (r.putAll (List.replicate (n + 1) Cplx.zero) p.cells) := by
  induction n with
  | zero => exact Progress.wrote_one holds Cplx.zero
  | succ n ih =>
    rw [Progress.writeZeros_succ, List.replicate_succ', Ring.putAll_concat]
    exact ih.writeRing Cplx.zero

end Wrote

section HistoryStages

variable (e : SampleEntry) (c : Call) (cells : List (Nat × Sample))

/-- The start of an entry. -/
def startOf (c : Call) (cells : List (Nat × Sample)) : Progress := { call := c, cells := cells, latched := [] }

theorem historyStages_def : historyStages e c cells = ((startOf c cells).gapFill e.gap).historyWrite e.symbol := rfl

/-- Stage 1 with g missing symbols (R27); with none every part of it is as before. -/
theorem Progress.gapFill_call (p : Progress) (g : BitVec 4) :
    (p.gapFill g).call.nearLine = shiftZeros g.toNat p.call.nearLine ∧
    (p.gapFill g).call.eqLine = shiftZeros (2 * g.toNat) p.call.eqLine ∧
    (p.gapFill g).call.stamp = p.call.stamp + g.setWidth 16 ∧
    (p.gapFill g).call.far = (Progress.writeZeros g.toNat p).call.far ∧
    (p.gapFill g).cells = (Progress.writeZeros g.toNat p).cells ∧
    (p.gapFill g).latched = (Progress.writeZeros g.toNat p).latched ++ latchWhen (decide (g ≠ 0)) .gap := by
  by_cases none : g = 0
  · subst none
    refine ⟨rfl, rfl, ?_, rfl, rfl, ?_⟩
    · simp [Progress.gapFill]
    · simp [Progress.gapFill, latchWhen, Progress.writeZeros]
  · have filled : p.gapFill g =
        { call := { (Progress.writeZeros g.toNat p).call with
            nearLine := shiftZeros g.toNat (Progress.writeZeros g.toNat p).call.nearLine
            eqLine := shiftZeros (2 * g.toNat) (Progress.writeZeros g.toNat p).call.eqLine
            stamp := (Progress.writeZeros g.toNat p).call.stamp + g.setWidth 16 }
          cells := (Progress.writeZeros g.toNat p).cells, latched := (Progress.writeZeros g.toNat p).latched ++ [.gap] } :=
      if_neg none
    have kept := congrArg Progress.call (p.writeZeros_eq g.toNat)
    rw [filled]
    refine ⟨?_, ?_, ?_, rfl, rfl, by rw [latchWhen, if_pos (decide_eq_true none)]⟩ <;> dsimp only <;> rw [kept] <;> rfl

theorem historyStages_stamp : (historyStages e c cells).call.stamp = c.stamp + e.gap.setWidth 16 + 1 := by
  obtain ⟨-, -, stamp, -⟩ := (startOf c cells).gapFill_call e.gap
  rw [historyStages_def, Progress.historyWrite_eq]
  exact congrArg (· + 1) stamp

theorem historyStages_nearLine : (historyStages e c cells).call.nearLine =
    (e.symbol :: (List.replicate e.gap.toNat Cplx.zero ++ c.nearLine)).take c.nearLine.length := by
  obtain ⟨near, -⟩ := (startOf c cells).gapFill_call e.gap
  rw [historyStages_def, Progress.historyWrite_eq]
  dsimp only
  rw [near]
  exact shiftIn_shiftZeros ..

theorem historyStages_eqLine : (historyStages e c cells).call.eqLine = shiftZeros (2 * e.gap.toNat) c.eqLine := by
  obtain ⟨-, eq, -⟩ := (startOf c cells).gapFill_call e.gap
  rw [historyStages_def, Progress.historyWrite_eq]
  exact eq

/-- The ring writes of an entry: a (0, 0) for each missing symbol, and then its own. -/
theorem historyStages_wrote {r : Ring} (holds : c.far = .filling r ∨ c.far = .active r) : (startOf c cells).Wrote
    (historyStages e c cells) r (r.putAll (List.replicate e.gap.toNat Cplx.zero ++ [e.symbol]) cells) := by
  obtain ⟨-, -, -, far, kept, latched⟩ := (startOf c cells).gapFill_call e.gap
  have settings : ((startOf c cells).gapFill e.gap).call.settings = c.settings := by rw [Progress.gapFill_eq]; rfl
  have last : (startOf c cells).Wrote (((startOf c cells).gapFill e.gap).writeRing e.symbol) r
      (r.putAll (List.replicate e.gap.toNat Cplx.zero ++ [e.symbol]) cells) := by
    cases g : e.gap.toNat with
    | zero =>
      have none : e.gap = 0 := BitVec.eq_of_toNat_eq g
      rw [none]
      exact Progress.wrote_one (p := startOf c cells) holds e.symbol
    | succ n =>
      rw [g] at far kept latched
      rw [Ring.putAll_concat]
      refine Progress.Wrote.writeRing ((Progress.writeZeros_wrote (p := startOf c cells) holds n).congr kept ?_ far ?_) _
      · rw [settings, Progress.writeZeros_eq]
        rfl
      · simp [latched]
  rw [historyStages_def]
  exact last.congr rfl rfl rfl Iff.rfl

theorem Progress.gap_mem_writeRing_iff (p : Progress) (x : Sample) :
    .gap ∈ (p.writeRing x).latched ↔ .gap ∈ p.latched := by
  unfold Progress.writeRing
  repeat' split
  all_goals simp

theorem Progress.gap_mem_writeZeros_iff (n : Nat) (p : Progress) :
    .gap ∈ (Progress.writeZeros n p).latched ↔ .gap ∈ p.latched := by
  induction n generalizing p with
  | zero => exact Iff.rfl
  | succ n ih => rw [Progress.writeZeros, ih, Progress.gap_mem_writeRing_iff]

/-- GAP is noted by stage 1 alone, exactly when a symbol is missing (R27). -/
theorem gap_mem_historyStages_iff : .gap ∈ (historyStages e c cells).latched ↔ e.gap ≠ 0 := by
  obtain ⟨-, -, -, -, -, latched⟩ := (startOf c cells).gapFill_call e.gap
  have written : .gap ∈ (historyStages e c cells).latched ↔ .gap ∈ ((startOf c cells).gapFill e.gap).latched :=
    Progress.gap_mem_writeRing_iff _ e.symbol
  rw [written, latched, List.mem_append, Progress.gap_mem_writeZeros_iff, mem_latchWhen]
  simp [startOf]

/-- Without a ring nothing becomes ACTIVE. -/
theorem farActive_not_mem_historyStages (ringless : c.far.Ringless) :
    .farActive ∉ (historyStages e c cells).latched := by
  obtain ⟨-, -, -, far, -, latched⟩ := (startOf c cells).gapFill_call e.gap
  have none := Progress.writeZeros_of_ringless (p := startOf c cells) ringless e.gap.toNat
  rw [none] at far latched
  have written : ((startOf c cells).gapFill e.gap).writeRing e.symbol = (startOf c cells).gapFill e.gap :=
    Progress.writeRing_of_ringless (by rw [far]; exact ringless) _
  rw [historyStages_def, Progress.historyWrite_eq, written]
  dsimp only
  rw [latched, List.mem_append, mem_latchWhen]
  simp [startOf]

end HistoryStages

/-! ### The conditions that the later stages do not note -/

/-- The conditions that stages 1 and 2 note. -/
def Condition.Early (x : Condition) : Prop := x = .gap ∨ x = .farActive

section Early

variable {x : Condition} (early : x.Early) (p : Progress) (ph : Phase) (n : Nat) (e : SampleEntry) (v : SampleValues)

include early

theorem Condition.Early.mem_monitored : x ∈ (p.monitored e).latched ↔ x ∈ p.latched := by
  unfold Progress.monitored
  rcases early with rfl | rfl <;> simp only [Progress.errorMonitor] <;> split <;>
    simp [Progress.signalMonitor, Progress.filter]

theorem Condition.Early.mem_echoAdaptation : x ∈ (p.echoAdaptation ph e v).latched ↔ x ∈ p.latched := by
  unfold Progress.echoAdaptation
  rcases early with rfl | rfl <;> dsimp only <;> repeat' split
  all_goals simp

theorem Condition.Early.mem_eqAdaptation : x ∈ (p.eqAdaptation ph e v).latched ↔ x ∈ p.latched := by
  unfold Progress.eqAdaptation
  rcases early with rfl | rfl <;> dsimp only <;> split <;> simp

theorem Condition.Early.mem_schedule : x ∈ (p.schedule ph n).latched ↔ x ∈ p.latched := by
  unfold Progress.schedule
  rcases early with rfl | rfl <;> dsimp only <;> repeat' split
  all_goals simp

theorem Condition.Early.mem_result : x ∈ (p.result v).latched ↔ x ∈ p.latched := by
  unfold Progress.result
  rcases early with rfl | rfl <;> dsimp only <;> split <;> simp

theorem Condition.Early.mem_laterStages : x ∈ (laterStages ph n e p).latched ↔ x ∈ p.latched := by
  rw [laterStages_eq, early.mem_result, early.mem_schedule, early.mem_eqAdaptation, early.mem_echoAdaptation,
    early.mem_monitored]

end Early

/-- Settles O29: the stamp, the lines and the ring are as stages 1 and 2 leave them, but for the residuals, which stage 4
shifts into the equalizer line; no later stage notes GAP or FAR_ACTIVE. -/
theorem linesAndStampAdvance : Obligations.LinesAndStampAdvance := by
  intro ph n e c cells
  have call := sampleStages_call ph n e c cells
  rw [laterStages_call, Progress.monitored_eq] at call
  obtain ⟨kept, far⟩ := laterStages_far ph n e (historyStages e c cells)
  have early {x : Condition} (h : x.Early) := h.mem_laterStages (historyStages e c cells) ph n e
  refine ⟨?_, ?_, ?_, ?_, fun notFilling notActive => ?_, fun r holds => ⟨_, rfl, ?_⟩⟩
  · rw [call]
    dsimp only
    rw [historyStages_stamp]
    simp [BitVec.toNat_add]
  · rw [call]
    exact historyStages_nearLine e c cells
  · rw [call]
    dsimp only
    rw [historyStages_eqLine]
    exact shiftIn_shiftIn_shiftZeros ..
  · exact (early (.inl rfl)).trans (gap_mem_historyStages_iff e c cells)
  · obtain ⟨same, untouched⟩ := sampleStages_of_ringless ⟨notFilling, notActive⟩ ph n e cells
    exact ⟨same, untouched, (early (.inr rfl)).not.mpr (farActive_not_mem_historyStages e c cells ⟨notFilling, notActive⟩)⟩
  · have wrote := historyStages_wrote e c cells holds
    obtain ⟨delay, pages⟩ := r.putAll_kept (List.replicate e.gap.toNat Cplx.zero ++ [e.symbol]) cells
    have length : (List.replicate e.gap.toNat Cplx.zero ++ [e.symbol]).length = e.gap.toNat + 1 := by simp
    refine ⟨kept.trans wrote.cells, delay, pages, fun inside => ?_, fun inside => ?_, far.trans wrote.far,
      ((early (.inr rfl)).trans wrote.noted).trans ?_⟩
    · rw [Ring.putAll_writeIndex inside, length]
      rfl
    · rw [Ring.putAll_fill inside, length]
      rfl
    · simp [startOf]

end Sys2Proof.Machine
end

section
/-! The completion of a SAMPLE entry for a LIVE context: its order, and what it leaves (R25, R26, R29 to R31, R53, R90). -/

namespace Sys2Proof.Machine

/-! ### History memory outside the context's own pages (R26, R72) -/

section Pages

variable {pages : List Page} {a : Nat} (outside : ∀ p ∈ pages, a / 64 ≠ p.val)

include outside

theorem Ring.cellsRead_put {r : Ring} (held : r.pages = pages) (cells : List (Nat × Sample)) (x : Sample) :
    cellsRead (r.put cells x) a = cellsRead cells a := by
  unfold Ring.put
  split
  next b hb =>
    refine cellsRead_write_of_ne cells x ?_
    rintro rfl
    obtain ⟨p, mem, page⟩ := Ring.address_eq_some hb
    exact outside p (held ▸ mem) page
  next => rfl

theorem Progress.cellsRead_writeRing {p : Progress} (held : p.call.far.pages = pages) (x : Sample) :
    cellsRead (p.writeRing x).cells a = cellsRead p.cells a := by
  unfold Progress.writeRing
  split
  next r far =>
    rw [far] at held
    split <;> exact Ring.cellsRead_put outside held p.cells x
  next r far =>
    rw [far] at held
    exact Ring.cellsRead_put outside held p.cells x
  all_goals rfl

theorem Progress.cellsRead_writeZeros (n : Nat) {p : Progress} (held : p.call.far.pages = pages) :
    cellsRead (Progress.writeZeros n p).cells a = cellsRead p.cells a := by
  induction n generalizing p with
  | zero => rfl
  | succ n ih =>
    rw [Progress.writeZeros, ih ((p.writeRing_pages _).trans held), Progress.cellsRead_writeRing outside held]

theorem cellsRead_historyStages {c : Call} (held : c.far.pages = pages) (e : SampleEntry) (cells : List (Nat × Sample)) :
    cellsRead (historyStages e c cells).cells a = cellsRead cells a := by
  obtain ⟨-, -, -, -, kept, -⟩ := (startOf c cells).gapFill_call e.gap
  obtain ⟨same, -⟩ := (startOf c cells).gapFill_far e.gap
  rw [historyStages_def, Progress.historyWrite_eq]
  dsimp only
  rw [Progress.cellsRead_writeRing outside (same.trans held), kept]
  exact Progress.cellsRead_writeZeros outside _ held

end Pages

/-! ### What a closed gate and a hold keep (R53, R90) -/

/-- A gate that looks at the signal is closed while the signal is present. -/
theorem Progress.echoAdaptation_of_gated {p : Progress}
    (gate : p.call.settings.gate = .internal ∨ p.call.settings.gate = .both)
    (present : p.call.signalState = .present) (ph : Phase) (e : SampleEntry) (v : SampleValues) :
    (p.echoAdaptation ph e v).call = p.call := by
  rw [Progress.echoAdaptation_of_not_adapts]
  rw [Call.echoAdapts_iff, present]
  rcases gate with gate | gate <;> simp [gate]

theorem Progress.eqAdaptation_of_hold {p : Progress} (hold : p.call.hold = true) (ph : Phase) (e : SampleEntry)
    (v : SampleValues) : p.eqAdaptation ph e v = p :=
  if_neg (by simp [Call.eqAdapts, hold])

/-! ### The completion (R25, R26, R30) -/

section Complete

variable (ph : Phase) (n : Nat) (e : SampleEntry) (c : Call) (cells : List (Nat × Sample))

/-- The lines, the far section and the stamp as stages 2 and 4 leave them. -/
theorem sampleStages_lines : (sampleStages ph n e c cells).call.stamp = (historyStages e c cells).call.stamp ∧
    (sampleStages ph n e c cells).call.nearLine = (historyStages e c cells).call.nearLine ∧
    (sampleStages ph n e c cells).call.far = (historyStages e c cells).call.far ∧
    (sampleStages ph n e c cells).call.eqLine =
      ((historyStages e c cells).filter ((historyStages e c cells).values e)).call.eqLine := by
  rw [sampleStages_call, laterStages_call, Progress.monitored_eq]
  exact ⟨rfl, rfl, rfl, rfl⟩

/-- The output queue of stage 12, its stamp that of stage 2. -/
theorem sampleStages_outputQueue : (sampleStages ph n e c cells).call.outputQueue =
    (if c.outputQueue.length < 4 then c.outputQueue else c.outputQueue.tail) ++
      [(historyStages e c cells).resultEntry ((historyStages e c cells).values e)] := by
  have kept : (historyStages e c cells).call.outputQueue = c.outputQueue := by rw [historyStages_eq]
  rw [sampleStages_call, laterStages_call, kept]

/-- Stages 1 to 8 leave the taps. -/
theorem monitored_historyStages_taps : ((historyStages e c cells).monitored e).call.nearTaps = c.nearTaps ∧
    ((historyStages e c cells).monitored e).call.farTaps = c.farTaps ∧
    ((historyStages e c cells).monitored e).call.eqTaps = c.eqTaps ∧
    ((historyStages e c cells).monitored e).call.settings = c.settings := by
  rw [Progress.monitored_eq, historyStages_eq]
  exact ⟨rfl, rfl, rfl, rfl⟩

/-- The monitors of the completed call are those of stage 8; its taps and cursor those of stages 9 to 11. -/
theorem complete_monitors :
    (sampleStages ph n e c cells).complete.signalPower = ((historyStages e c cells).monitored e).call.signalPower ∧
    (sampleStages ph n e c cells).complete.signalState = ((historyStages e c cells).monitored e).call.signalState ∧
    (sampleStages ph n e c cells).complete.errorPower = ((historyStages e c cells).monitored e).call.errorPower ∧
    (sampleStages ph n e c cells).complete.errorState = ((historyStages e c cells).monitored e).call.errorState ∧
    (sampleStages ph n e c cells).complete.hold = ((historyStages e c cells).monitored e).call.hold := by
  rw [Progress.complete, Call.latchAll_signalPower, Call.latchAll_signalState, Call.latchAll_errorPower,
    Call.latchAll_errorState, Call.latchAll_hold, sampleStages_call, laterStages_call]
  exact ⟨rfl, rfl, rfl, rfl, rfl⟩

theorem complete_taps : (sampleStages ph n e c cells).complete.nearTaps =
      (((historyStages e c cells).monitored e).echoAdaptation ph e ((historyStages e c cells).values e)).call.nearTaps ∧
    (sampleStages ph n e c cells).complete.farTaps =
      (((historyStages e c cells).monitored e).echoAdaptation ph e ((historyStages e c cells).values e)).call.farTaps ∧
    (sampleStages ph n e c cells).complete.eqTaps =
      (((historyStages e c cells).monitored e).eqAdaptation ph e ((historyStages e c cells).values e)).call.eqTaps := by
  rw [Progress.complete, Call.latchAll_nearTaps, Call.latchAll_farTaps, Call.latchAll_eqTaps, sampleStages_call,
    laterStages_call]
  exact ⟨rfl, rfl, rfl⟩

theorem complete_cursor :
    (sampleStages ph n e c cells).complete.phase = ((historyStages e c cells).schedule ph n).call.phase ∧
    (sampleStages ph n e c cells).complete.count = ((historyStages e c cells).schedule ph n).call.count := by
  rw [Progress.complete, Call.latchAll_phase, Call.latchAll_count, sampleStages_call, laterStages_call]
  exact ⟨rfl, rfl⟩

/-- The signal state that stage 8 leaves is the one the gate of stage 9 looks at (R53). -/
theorem complete_taps_of_gated (gate : c.settings.gate = .internal ∨ c.settings.gate = .both)
    (shown : (sampleStages ph n e c cells).complete.signalState = .present) :
    (sampleStages ph n e c cells).complete.nearTaps = c.nearTaps ∧
    (sampleStages ph n e c cells).complete.farTaps = c.farTaps := by
  obtain ⟨-, signalState, -⟩ := complete_monitors ph n e c cells
  obtain ⟨near, far, -⟩ := complete_taps ph n e c cells
  obtain ⟨nearTaps, farTaps, -, settings⟩ := monitored_historyStages_taps e c cells
  rw [near, far, Progress.echoAdaptation_of_gated (settings.symm ▸ gate) (signalState.symm.trans shown)]
  exact ⟨nearTaps, farTaps⟩

/-- The hold that stage 8 leaves is the one stage 10 looks at (R90). -/
theorem complete_eqTaps_of_hold (hold : (sampleStages ph n e c cells).complete.hold = true) :
    (sampleStages ph n e c cells).complete.eqTaps = c.eqTaps := by
  obtain ⟨-, -, -, -, held⟩ := complete_monitors ph n e c cells
  obtain ⟨-, -, eq⟩ := complete_taps ph n e c cells
  obtain ⟨-, -, eqTaps, -⟩ := monitored_historyStages_taps e c cells
  rw [eq, Progress.eqAdaptation_of_hold (held.symm.trans hold), eqTaps]

/-- What is pending after a SAMPLE entry: what was, and what its stages noted. -/
theorem isPending_sampled (x : Condition) : (sampleStages ph n e c cells).complete.isPending x = true ↔
    c.isPending x = true ∨ x ∈ (sampleStages ph n e c cells).latched := by
  have kept : (sampleStages ph n e c cells).call.isPending x = c.isPending x := by
    rw [Call.isPending, (sampleStages_sameOwner ..).conditions, Call.isPending]
  rw [Progress.complete, Call.isPending_latchAll, kept, Bool.or_eq_true, decide_eq_true_eq]

end Complete

theorem exec_sampleEntryCompletion_of_live {s : State} {i : CtxNum} {e : SampleEntry} {c : Call} {ph : Phase} {n : Nat}
    (job : s.engine.job = some { context := i, entry := .sample e }) (live : s.contexts[i] = .live c)
    (current : s.currentPhase c = some (ph, n)) :
    exec .sampleEntryCompletion s = .next (State.sampleOutcome i e ph n c s.endJob).takeNext := by
  simp only [exec, execSampleEntryCompletion, job, live, current, State.completeFor]

/-- Settles O28: each field of the completed call is traced to the stage that leaves it. -/
theorem sampleCompletionFrame : Obligations.SampleCompletionFrame := by
  intro s i e c phases ph job live present named
  have current : s.currentPhase c = some (ph, phases.length) := by
    simp only [State.currentPhase, present, named, Option.map_some]
  have owner := sampleStages_sameOwner ph phases.length e c s.history.cells
  have pending := isPending_sampled ph phases.length e c s.history.cells
  have output := sampleStages_outputQueue ph phases.length e c s.history.cells
  obtain ⟨stamp, near, far, eq⟩ := sampleStages_lines ph phases.length e c s.history.cells
  obtain ⟨signalPower, signalState, errorPower, errorState, hold⟩ :=
    complete_monitors ph phases.length e c s.history.cells
  obtain ⟨nearTaps, farTaps, eqTaps⟩ := complete_taps ph phases.length e c s.history.cells
  obtain ⟨phase, count⟩ := complete_cursor ph phases.length e c s.history.cells
  obtain ⟨cells, -⟩ := laterStages_far ph phases.length e (historyStages e c s.history.cells)
  rw [Progress.resultEntry, historyStages_stamp] at output
  rw [historyStages_stamp] at stamp
  refine ⟨_, _, exec_sampleEntryCompletion_of_live job live current, rfl, (Call.latchAll_lane ..).trans owner.lane,
    (Call.latchAll_profile ..).trans owner.profile, (Call.latchAll_settings ..).trans owner.settings,
    (Call.latchAll_inputQueue ..).trans owner.inputQueue, (Call.latchAll_lastSequence ..).trans owner.lastSequence,
    (Call.latchAll_frozen ..).trans owner.frozen, (Call.latchAll_exportRun ..).trans owner.exportRun,
    (congrArg FarSection.pages (Call.latchAll_far ..)).trans (sampleStages_far ..).1,
    fun x h => (pending x).mpr (.inl h), pending, ?_,
    complete_taps_of_gated _ _ e c _, complete_eqTaps_of_hold _ _ e c _, fun a outside => ?_⟩
  · exact ⟨(Call.latchAll_stamp ..).trans stamp, (Call.latchAll_outputQueue ..).trans output,
      (Call.latchAll_nearLine ..).trans near, (Call.latchAll_far ..).trans far, cells, (Call.latchAll_eqLine ..).trans eq,
      signalPower, signalState, errorPower, errorState, hold, nearTaps, farTaps, eqTaps, phase, count⟩
  · exact (congrArg (cellsRead · a) cells).trans (cellsRead_historyStages outside rfl e s.history.cells)

end Sys2Proof.Machine
end
